-- ==== Sys2Proof/Word.lean ====
section
/-! DEFINITION. The one word type of the block: every operand and every register wider than a bit is 8 bits, unsigned
(00_scope.md R9, R10). -/

namespace Sys2Proof

/-- An 8-bit unsigned value (00_scope.md R9). -/
abbrev Byte := BitVec 8

end Sys2Proof
end

