-- ==== Sys2Proof/Config.lean ====
section
/-! DEFINITION. What a construction fixes for the block's life (00_scope.md R7): the wiring with its bit-width, the
timing minimums, the width of the shift word and the instruction-byte table; and the one free value of the model. -/

namespace Sys2Proof

/-- A pin identifier, "an opaque value of the platform" (10_state.md R20). DESIGN CHOICE (log 10): a natural number, of
which only equality is ever used. -/
abbrev Pin := Nat

/-- A bit position of the shift word (10_state.md R20). -/
abbrev Pos := Nat

/-- The Direct variant's fields (10_state.md R21). -/
structure DirectWiring where
  rs   : Pin
  rw   : Option Pin
  en   : Pin
  data : List Pin
  bw   : Nat
deriving DecidableEq, Repr

/-- The Shift-Register variant's fields (10_state.md R22). -/
structure ShiftRegWiring where
  sdata   : Pin
  sclk    : Pin
  latch   : Option Pin
  enPin   : Option Pin
  rsPos   : Pos
  enPos   : Option Pos
  rwPos   : Option Pos
  dataPos : List Pos
  bw      : Nat
deriving DecidableEq, Repr

/-- The Callback variant's fields (10_state.md R23). DESIGN CHOICE (log 10): `cb`, an external procedure, is a handle (a
number); nothing in the block looks inside it. -/
structure CallbackWiring where
  cb : Nat
  bw : Nat
deriving DecidableEq, Repr

/-- WIRING: exactly one of the three variants (10_state.md R20). -/
inductive Wiring where
  | direct (c : DirectWiring)
  | shiftReg (c : ShiftRegWiring)
  | callback (c : CallbackWiring)
deriving DecidableEq, Repr

/-- BW, declared by every variant (10_state.md R21 to R23). -/
def Wiring.bw : Wiring → Nat
  | .direct c => c.bw
  | .shiftReg c => c.bw
  | .callback c => c.bw

/-- TIMING, in microseconds (00_scope.md R8). -/
structure Timing where
  tPowerOn   : Nat
  tInitLong  : Nat
  tInitShort : Nat
  tEnHigh    : Nat
  tSettle    : Nat
  tClear     : Nat
deriving DecidableEq, Repr

/-- "The default value of each field is its bound" (00_scope.md R8). -/
def Timing.default : Timing :=
  { tPowerOn := 50000, tInitLong := 4500, tInitShort := 150, tEnHigh := 1, tSettle := 100, tClear := 2000 }

/-- HD_ENC, "instruction-byte encoding table" (00_scope.md R7; 30_encoding.md R82, R83): opcode constants, and the bit
each field takes in its instruction byte. A parameter of the block, as 93_implementation_defined.md I1 treats it; the
values the spec gives are `HdEnc.standard` in Decode.lean. -/
structure HdEnc where
  clear   : Byte
  home    : Byte
  entry   : Byte
  dispctl : Byte
  shift   : Byte
  func    : Byte
  cgaddr  : Byte
  ddaddr  : Byte
  bitDL   : Nat
  bitN    : Nat
  bitF    : Nat
  bitD    : Nat
  bitC    : Nat
  bitB    : Nat
  bitID   : Nat
  bitSH   : Nat
  bitSC   : Nat
  bitRL   : Nat
deriving DecidableEq, Repr

/-- The parameters a construction fixes (00_scope.md R7); nothing changes one afterwards. -/
structure Config where
  wiring     : Wiring
  timing     : Timing
  srWordBits : Nat
  hdEnc      : HdEnc
deriving DecidableEq, Repr

/-- BW of the block. -/
def Config.bw (c : Config) : Nat := c.wiring.bw

/-- FREE VALUE (log 9, safe). ROW_OFFSET has four entries (10_state.md R34); the spec gives no value at an index past
them, and no reachable state reads one (42_commands.md R166). -/
opaque Config.rowOffsetBeyond : Nat → Byte

end Sys2Proof
end

