-- ==== Sys2Proof/Syntax.lean ====
section
/-! DEFINITION. The host operations, the block's instruction set (00_scope.md R4, 30_encoding.md R88): a closed set of
nineteen, one constructor per row of the opcode table, in the table's order. -/

namespace Sys2Proof

/-- The font operand of `begin` (00_scope.md R9). -/
inductive Font where
  | font5x8
  | font5x10
deriving DecidableEq, Repr

/-- The eight rows of a custom glyph, row 0 first (30_encoding.md R88: `glyph : 8 × u8`). -/
structure Glyph where
  row0 : Byte
  row1 : Byte
  row2 : Byte
  row3 : Byte
  row4 : Byte
  row5 : Byte
  row6 : Byte
  row7 : Byte
deriving DecidableEq, Repr

/-- The rows in glyph order, `glyph[0]` first (42_commands.md R179). -/
def Glyph.rows (g : Glyph) : List Byte :=
  [g.row0, g.row1, g.row2, g.row3, g.row4, g.row5, g.row6, g.row7]

/-- The names of the operations: what the fault NOT_READY records (60_exceptions.md R222), and the row of the opcode
table an operation belongs to. -/
inductive OpName where
  | begin
  | clear
  | home
  | setCursor
  | noDisplay
  | display
  | noCursor
  | cursor
  | noBlink
  | blink
  | scrollDisplayLeft
  | scrollDisplayRight
  | leftToRight
  | rightToLeft
  | autoscroll
  | noAutoscroll
  | createChar
  | write
  | command
deriving DecidableEq, Repr

/-- A host operation with its operands (30_encoding.md R88). -/
inductive Instr where
  | begin (cols rows : Byte) (font : Font)
  | clear
  | home
  | setCursor (col row : Byte)
  | noDisplay
  | display
  | noCursor
  | cursor
  | noBlink
  | blink
  | scrollDisplayLeft
  | scrollDisplayRight
  | leftToRight
  | rightToLeft
  | autoscroll
  | noAutoscroll
  | createChar (location : Byte) (glyph : Glyph)
  | write (value : Byte)
  | command (value : Byte)
deriving DecidableEq, Repr

/-- The name of an operation. -/
def Instr.op : Instr → OpName
  | .begin _ _ _ => .begin
  | .clear => .clear
  | .home => .home
  | .setCursor _ _ => .setCursor
  | .noDisplay => .noDisplay
  | .display => .display
  | .noCursor => .noCursor
  | .cursor => .cursor
  | .noBlink => .noBlink
  | .blink => .blink
  | .scrollDisplayLeft => .scrollDisplayLeft
  | .scrollDisplayRight => .scrollDisplayRight
  | .leftToRight => .leftToRight
  | .rightToLeft => .rightToLeft
  | .autoscroll => .autoscroll
  | .noAutoscroll => .noAutoscroll
  | .createChar _ _ => .createChar
  | .write _ => .write
  | .command _ => .command

end Sys2Proof
end

