-- ==== Sys2Proof/WellFormed.lean ====
section
/-! DEFINITION. Well-formedness. A host operation needs no check: every value of every operand type may be passed
(30_encoding.md R90), and the types of Syntax.lean hold nothing else. What is checked is a construction: the seven
conditions on WIRING (10_state.md R21 to R23, reasons of 60_exceptions.md R222) and the bounds on TIMING (00_scope.md
R8). -/

namespace Sys2Proof

/-- The sub-reasons of CFG_INVALID (60_exceptions.md R222), in the rule's order. -/
inductive CfgReason where
  | bw
  | dataLen
  | pinDup
  | enChoice
  | latchEn
  | posRange
  | posDup
deriving DecidableEq, Repr

/-- The pins a variant drives, roles in the order its rule lists them (10_state.md R21, R22). -/
def Wiring.pins : Wiring → List Pin
  | .direct c => c.rs :: (c.rw.toList ++ c.en :: c.data)
  | .shiftReg c => c.sdata :: c.sclk :: (c.latch.toList ++ c.enPin.toList)
  | .callback _ => []

/-- The bit positions a Shift-Register wiring uses (10_state.md R22 (c)). -/
def ShiftRegWiring.positions (c : ShiftRegWiring) : List Pos :=
  c.rsPos :: (c.enPos.toList ++ c.rwPos.toList ++ c.dataPos)

/-- The reason, unless its condition holds. -/
def CfgReason.unless (r : CfgReason) (p : Prop) [Decidable p] : List CfgReason := if p then [] else [r]

/-- The conditions of 10_state.md R21 to R23 that fail, each as the reason 60_exceptions.md R222 names, in that rule's
order. -/
def Wiring.problems (srWordBits : Nat) (w : Wiring) : List CfgReason :=
  CfgReason.bw.unless (w.bw = 4 ∨ w.bw = 8) ++
  match w with
  | .direct c =>
    CfgReason.dataLen.unless (c.data.length = c.bw) ++
    CfgReason.pinDup.unless (Wiring.direct c).pins.Nodup
  | .shiftReg c =>
    CfgReason.dataLen.unless (c.dataPos.length = c.bw) ++
    CfgReason.pinDup.unless (Wiring.shiftReg c).pins.Nodup ++
    CfgReason.enChoice.unless (c.enPin.isSome = !c.enPos.isSome) ++
    CfgReason.latchEn.unless (c.latch.isSome = true → c.enPin.isSome = true) ++
    CfgReason.posRange.unless (∀ p ∈ c.positions, p < srWordBits) ++
    CfgReason.posDup.unless c.positions.Nodup
  | .callback _ => []

/-- WIRING is well-formed: no condition fails. -/
abbrev Wiring.wf (srWordBits : Nat) (w : Wiring) : Prop := w.problems srWordBits = []

/-- TIMING is admissible: each field is at least its source minimum (00_scope.md R8). -/
abbrev Timing.wf (t : Timing) : Prop :=
  50000 ≤ t.tPowerOn ∧ 4500 ≤ t.tInitLong ∧ 150 ≤ t.tInitShort ∧ 1 ≤ t.tEnHigh ∧ 100 ≤ t.tSettle ∧ 2000 ≤ t.tClear

/-- A configuration a block can be constructed with (70_reset_and_hazards.md R240 (b), 00_scope.md R8). -/
abbrev Config.wf (c : Config) : Prop := c.wiring.wf c.srWordBits ∧ c.timing.wf

end Sys2Proof
end

