-- ==== Sys2Proof/Decode.lean ====
section
/-! DEFINITION. The encoding tables: the values of HD_ENC, the opcode table's rows, and the byte form of a host operation.

The spec gives a host operation NO binary form (00_scope.md R4, 30_encoding.md R94: "A model decodes nothing"). The
table's words are what the block SENDS, and several operations send the same word. The byte form below is the model's
own (log 2, DESIGN CHOICE), for tools that hold an operation as bits; `step` takes operations from the host's queue and
never decodes. A request is two bytes and then the operand bytes:

* byte 0 is `b[7:0]` of the row's bus word, and bit 0 of byte 1 is its `RS` (BUS9, R80);
* bits 7..1 of byte 1 are the row's number in the opcode table, 1 to 19, or 0 for a BARE bus word without operand
  bytes, which stands for one operation that sends it (`bareRow`);
* the operand bytes follow for the rows that have any: `begin` cols, rows, font; `setCursor` col, row; `createChar`
  location, glyph[0] .. glyph[7]. -/

namespace Sys2Proof

/-- The values the spec gives HD_ENC (30_encoding.md R82, R83). PRESUMED (log 5, unsafe): the spec marks them "from
general knowledge, not in source" (93_implementation_defined.md I1). A block sends the bytes of its own parameter
`cfg.hdEnc`; these values are State.reset's, and those of the opcode table the requests below are written in. -/
def HdEnc.standard : HdEnc :=
  { clear := 0x01, home := 0x02, entry := 0x04, dispctl := 0x08
    shift := 0x10, func := 0x20, cgaddr := 0x40, ddaddr := 0x80
    bitDL := 4, bitN := 3, bitF := 2
    bitD := 2, bitC := 1, bitB := 0
    bitID := 1, bitSH := 0
    bitSC := 3, bitRL := 2 }

/-- `flag << n` as a byte (30_encoding.md R84). -/
def flagAt (flag : Bool) (n : Nat) : Byte := if flag then 1#8 <<< n else 0#8

/-! ## The opcode table -/

/-- A row of the opcode table: a 9-bit bus word, bit 8 = RS (30_encoding.md R80, R94). -/
structure OpRow where
  pat  : BitVec 9
  mask : BitVec 9
deriving DecidableEq, Repr

/-- The table's rows. -/
def OpName.tableRow : OpName → OpRow
  | .begin              => { pat := 0x020, mask := 0x1E3 }
  | .clear              => { pat := 0x001, mask := 0x1FF }
  | .home               => { pat := 0x002, mask := 0x1FF }
  | .setCursor          => { pat := 0x080, mask := 0x180 }
  | .noDisplay          => { pat := 0x008, mask := 0x1FC }
  | .display            => { pat := 0x00C, mask := 0x1FC }
  | .noCursor           => { pat := 0x008, mask := 0x1FA }
  | .cursor             => { pat := 0x00A, mask := 0x1FA }
  | .noBlink            => { pat := 0x008, mask := 0x1F9 }
  | .blink              => { pat := 0x009, mask := 0x1F9 }
  | .scrollDisplayLeft  => { pat := 0x018, mask := 0x1FF }
  | .scrollDisplayRight => { pat := 0x01C, mask := 0x1FF }
  | .leftToRight        => { pat := 0x006, mask := 0x1FE }
  | .rightToLeft        => { pat := 0x004, mask := 0x1FE }
  | .autoscroll         => { pat := 0x005, mask := 0x1FD }
  | .noAutoscroll       => { pat := 0x004, mask := 0x1FD }
  | .createChar         => { pat := 0x040, mask := 0x1C7 }
  | .write              => { pat := 0x100, mask := 0x100 }
  | .command            => { pat := 0x000, mask := 0x100 }

/-- A word fits a row: the row's fixed bits are as the row says. -/
def OpRow.fits (r : OpRow) (w : BitVec 9) : Bool := w &&& r.mask == r.pat

/-- The operations in the table's order. -/
def OpName.all : List OpName :=
  [.begin, .clear, .home, .setCursor, .noDisplay, .display, .noCursor, .cursor, .noBlink, .blink,
   .scrollDisplayLeft, .scrollDisplayRight, .leftToRight, .rightToLeft, .autoscroll, .noAutoscroll,
   .createChar, .write, .command]

/-- A row's number in the table, from 1 (log 2). -/
def OpName.number : OpName → Nat
  | .begin => 1
  | .clear => 2
  | .home => 3
  | .setCursor => 4
  | .noDisplay => 5
  | .display => 6
  | .noCursor => 7
  | .cursor => 8
  | .noBlink => 9
  | .blink => 10
  | .scrollDisplayLeft => 11
  | .scrollDisplayRight => 12
  | .leftToRight => 13
  | .rightToLeft => 14
  | .autoscroll => 15
  | .noAutoscroll => 16
  | .createChar => 17
  | .write => 18
  | .command => 19

/-- The row of a number (log 2). -/
def OpName.ofNumber (n : Nat) : Option OpName := OpName.all.find? (fun o => o.number == n)

/-- The bus word `{RS, b}` of format BUS9 (30_encoding.md R80). -/
def bus9 (rs : Bool) (b : Byte) : BitVec 9 := BitVec.ofBool rs ++ b

/-! ## Decoding -/

/-- Why bytes are no request. -/
inductive DecodeError where
  /-- the bytes end before the request does -/
  | truncated
  /-- the row number is none of 0 to 19 -/
  | noSuchRow (n : Nat)
  /-- the bus word does not fit the row it is filed under -/
  | wordNotOfRow (op : OpName)
  /-- the font byte is neither 0 nor 1 -/
  | badFont (b : Byte)
deriving DecidableEq, Repr

/-- The operation row a bare bus word stands for: the first row whose pattern IS the word, else the first it fits
(log 2). -/
def bareRow (w : BitVec 9) : OpName :=
  match OpName.all.find? (fun o => o.tableRow.pat == w) with
  | some o => o
  | none => (OpName.all.find? (fun o => o.tableRow.fits w)).getD .command

/-- A bare bus word as an operation of the given row: the operands are the word's fields, and what no field gives is 0.
For `begin` the field N says one line or two; for `setCursor` row 0, whose offset is 0, so that the word's address is
the column (log 2). -/
def bareInstr (op : OpName) (w : BitVec 9) : Instr :=
  match op with
  | .begin => .begin 0 (if w.getLsbD 3 then 2 else 1) (if w.getLsbD 2 then .font5x10 else .font5x8)
  | .clear => .clear
  | .home => .home
  | .setCursor => .setCursor (w.setWidth 8 &&& 0x7F) 0
  | .noDisplay => .noDisplay
  | .display => .display
  | .noCursor => .noCursor
  | .cursor => .cursor
  | .noBlink => .noBlink
  | .blink => .blink
  | .scrollDisplayLeft => .scrollDisplayLeft
  | .scrollDisplayRight => .scrollDisplayRight
  | .leftToRight => .leftToRight
  | .rightToLeft => .rightToLeft
  | .autoscroll => .autoscroll
  | .noAutoscroll => .noAutoscroll
  | .createChar => .createChar ((w.setWidth 8 >>> 3) &&& 0x07) ⟨0, 0, 0, 0, 0, 0, 0, 0⟩
  | .write => .write (w.setWidth 8)
  | .command => .command (w.setWidth 8)

/-- The font of a font byte (log 2). -/
def fontOfByte (b : Byte) : Except DecodeError Font :=
  if b = 0 then .ok .font5x8 else if b = 1 then .ok .font5x10 else .error (.badFont b)

/-- A request filed under a row: the operand in the word's byte `b` (`write`, `command`) or in the bytes after it. -/
def decodeOperands (op : OpName) (b : Byte) (rest : List Byte) : Except DecodeError (Instr × List Byte) :=
  match op with
  | .begin =>
    match rest with
    | cols :: rows :: f :: tail =>
      match fontOfByte f with
      | .ok font => .ok (.begin cols rows font, tail)
      | .error e => .error e
    | _ => .error .truncated
  | .clear => .ok (.clear, rest)
  | .home => .ok (.home, rest)
  | .setCursor =>
    match rest with
    | col :: row :: tail => .ok (.setCursor col row, tail)
    | _ => .error .truncated
  | .noDisplay => .ok (.noDisplay, rest)
  | .display => .ok (.display, rest)
  | .noCursor => .ok (.noCursor, rest)
  | .cursor => .ok (.cursor, rest)
  | .noBlink => .ok (.noBlink, rest)
  | .blink => .ok (.blink, rest)
  | .scrollDisplayLeft => .ok (.scrollDisplayLeft, rest)
  | .scrollDisplayRight => .ok (.scrollDisplayRight, rest)
  | .leftToRight => .ok (.leftToRight, rest)
  | .rightToLeft => .ok (.rightToLeft, rest)
  | .autoscroll => .ok (.autoscroll, rest)
  | .noAutoscroll => .ok (.noAutoscroll, rest)
  | .createChar =>
    match rest with
    | l :: g0 :: g1 :: g2 :: g3 :: g4 :: g5 :: g6 :: g7 :: tail =>
      .ok (.createChar l ⟨g0, g1, g2, g3, g4, g5, g6, g7⟩, tail)
    | _ => .error .truncated
  | .write => .ok (.write b, rest)
  | .command => .ok (.command b, rest)

/-- Decode one request, total on any bytes: the operation and the bytes after it, or the reason there is none (log 2). -/
def decode : List Byte → Except DecodeError (Instr × List Byte)
  | b :: hi :: rest =>
    let w := bus9 (hi.getLsbD 0) b
    let n := hi.toNat / 2
    if n = 0 then .ok (bareInstr (bareRow w) w, rest)
    else
      match OpName.ofNumber n with
      | none => .error (.noSuchRow n)
      | some op => if op.tableRow.fits w then decodeOperands op b rest else .error (.wordNotOfRow op)
  | _ => .error .truncated

/-! ## Encoding -/

/-- The font byte (log 2). -/
def Font.toByte : Font → Byte
  | .font5x8 => 0
  | .font5x10 => 1

/-- The bus word a request carries: the table's row with the fields the OPERANDS fix; a field that the state fixes at
run time (`L`, `a`, `C`, `B`, `D`, `S`, `I`) is 0 (log 2). -/
def Instr.rowWord : Instr → BitVec 9
  | .begin _ rows font =>
    bus9 false (HdEnc.standard.func ||| flagAt (decide (2 ≤ rows.toNat)) HdEnc.standard.bitN
      ||| flagAt (decide (font = .font5x10 ∧ rows = 1)) HdEnc.standard.bitF)
  | .createChar location _ => bus9 false (HdEnc.standard.cgaddr ||| ((location &&& 0x07) <<< 3))
  | .write value => bus9 true value
  | .command value => bus9 false value
  | .clear => OpName.clear.tableRow.pat
  | .home => OpName.home.tableRow.pat
  | .setCursor _ _ => OpName.setCursor.tableRow.pat
  | .noDisplay => OpName.noDisplay.tableRow.pat
  | .display => OpName.display.tableRow.pat
  | .noCursor => OpName.noCursor.tableRow.pat
  | .cursor => OpName.cursor.tableRow.pat
  | .noBlink => OpName.noBlink.tableRow.pat
  | .blink => OpName.blink.tableRow.pat
  | .scrollDisplayLeft => OpName.scrollDisplayLeft.tableRow.pat
  | .scrollDisplayRight => OpName.scrollDisplayRight.tableRow.pat
  | .leftToRight => OpName.leftToRight.tableRow.pat
  | .rightToLeft => OpName.rightToLeft.tableRow.pat
  | .autoscroll => OpName.autoscroll.tableRow.pat
  | .noAutoscroll => OpName.noAutoscroll.tableRow.pat

/-- The operand bytes after the word (log 2). -/
def Instr.operandBytes : Instr → List Byte
  | .begin cols rows font => [cols, rows, font.toByte]
  | .setCursor col row => [col, row]
  | .createChar location glyph => location :: glyph.rows
  | .clear | .home | .noDisplay | .display | .noCursor | .cursor | .noBlink | .blink | .scrollDisplayLeft
  | .scrollDisplayRight | .leftToRight | .rightToLeft | .autoscroll | .noAutoscroll | .write _ | .command _ => []

/-- Encode an operation as a request (log 2). -/
def encode (i : Instr) : List Byte :=
  i.rowWord.setWidth 8 :: BitVec.ofNat 8 (2 * i.op.number + (i.rowWord.getLsbD 8).toNat) :: i.operandBytes

/-! ## The opcode table's numbering -/

/-- The bytes of the longest request (11), taken from a number whose bit 0 is bit 0 of the first byte. -/
def requestBytes (w : Nat) : List Byte := (List.range 11).map (fun k => BitVec.ofNat 8 (w >>> (8 * k)))

/-- The operation the decoder reads from the table's word `w` of `nbits` bits; bits above them are 0. -/
def decodeTableWord (nbits w : Nat) : Option Instr :=
  match decode (requestBytes (w % 2 ^ nbits)) with
  | .ok (i, _) => some i
  | .error _ => none

end Sys2Proof
end

