-- ==== Sys2Proof/Machine/State.lean ====
section
/-! DEFINITION. The state of the block (10_state.md), the events of its trace (00_scope.md R12), the reasons a step can
stop, and the state after construction, which is the block's only reset (70_reset_and_hazards.md R240, R242). -/

namespace Sys2Proof

/-- The spec's example configuration DIR4 (40_transmission.md, head of the file), with the default TIMING, the default
SR_WORD_BITS and HD_ENC's values. DESIGN CHOICE (log 3, unsafe): the spec names no default WIRING, and State.reset is the
block constructed with this one. -/
def Config.dir4 : Config :=
  { wiring := .direct { rs := 12, rw := none, en := 11, data := [5, 4, 3, 2], bw := 4 }
    timing := Timing.default
    srWordBits := 8
    hdEnc := HdEnc.standard }

end Sys2Proof

namespace Sys2Proof.Machine

/-- The mode of a transmission (00_scope.md R10, R16). -/
inductive Mode where
  | command
  | data
deriving DecidableEq, Repr

/-- The level of a pin (00_scope.md R10). -/
inductive Level where
  | low
  | high
deriving DecidableEq, Repr

/-- One platform I/O call (00_scope.md R12). The word of a `shift` has `cfg.srWordBits` bits; it is held as a number
below `2 ^ srWordBits` (log 11). -/
inductive Event where
  | pinMode (p : Pin)
  | write (p : Pin) (l : Level)
  | shift (dp cp : Pin) (word : Nat)
  | delay (n : Nat)
  | call (v : Byte) (m : Mode) (w : Nat)
deriving DecidableEq, Repr

/-- The phase between operations (10_state.md R26). -/
inductive Phase where
  | powerUnknown
  | ready
deriving DecidableEq, Repr

/-- The codes of the `fault` register with the info each records (60_exceptions.md R222). -/
inductive FaultCode where
  | notReady (op : OpName)
  | rebegin
  | badRows (rows : Byte)
  | badWidth (w : Nat)
deriving DecidableEq, Repr

/-- A register that may hold ⊥, "unwritten" (10_state.md R41): `written = false` is ⊥. It holds a value all the same
(log 4), so that reading it is total. -/
structure Reg (α : Type) where
  value   : α
  written : Bool
deriving DecidableEq, Repr

/-- `functionFlags` (10_state.md R28). -/
structure FnFlags where
  DL : Bool
  N  : Reg Bool
  F  : Reg Bool
deriving DecidableEq, Repr

/-- `controlFlags` (10_state.md R29). -/
structure CtlFlags where
  D : Reg Bool
  C : Reg Bool
  B : Reg Bool
deriving DecidableEq, Repr

/-- `entryFlags` (10_state.md R30). -/
structure EntFlags where
  ID : Reg Bool
  SH : Reg Bool
deriving DecidableEq, Repr

/-- The whole state of the block and of its host interface. -/
structure State where
  /-- WIRING, BW, TIMING, SR_WORD_BITS, HD_ENC: immutable (00_scope.md R7, 10_state.md R20) -/
  cfg         : Config
  /-- 10_state.md R26 -/
  phase       : Phase
  /-- `none` or a fault code; sticky (10_state.md R27) -/
  fault       : Option FaultCode
  /-- 10_state.md R28 -/
  fn          : FnFlags
  /-- 10_state.md R29 -/
  ctl         : CtlFlags
  /-- 10_state.md R30 -/
  ent         : EntFlags
  /-- 10_state.md R31 -/
  lineCount   : Reg Byte
  /-- 10_state.md R32 -/
  currentLine : Reg Byte
  /-- 10_state.md R33 -/
  numCols     : Reg Byte
  /-- the events, oldest first (10_state.md R35) -/
  trace       : List Event
  /-- the model's own: operations the host has issued and the block has not run, oldest first (log 1) -/
  pending     : List Instr
  /-- the model's own: what the last operation to complete returned (42_commands.md R184, log 7) -/
  ret         : Option Nat
deriving DecidableEq, Repr

/-- Why a step stops with a fault. -/
inductive Fault where
  /-- Raised by every meaning when the register `fault` is already set: "While `fault` is not `none`, no operation has a
  step" (60_exceptions.md R221, R223). Safe: the machine stops where the spec gives no step (log 6). -/
  | blockFaulted (code : FaultCode)
deriving DecidableEq, Repr

/-- Why a step, or a construction, is refused. -/
inductive Refusal where
  /-- Raised by `exec` alone, for an instruction without a meaning; no instruction is left without one. Safe. -/
  | notModelled (mnemonic : String)
  /-- Raised by `construct` alone: WIRING fails a condition, CFG_INVALID (70_reset_and_hazards.md R240 (a)). Safe. -/
  | cfgInvalid (reason : CfgReason)
  /-- Raised by `construct` alone: TIMING is below a bound of 00_scope.md R8 (log 8). Safe. -/
  | timingBelowBound
deriving DecidableEq, Repr

/-- ⊥ with the value the model puts beside the mark (log 4). -/
def Reg.unwritten {α : Type} (v : α) : Reg α := { value := v, written := false }

/-- The state of a block just constructed (10_state.md R41). Each ⊥ register has the value 0 beside its mark: DESIGN
CHOICE (log 4). -/
def State.constructed (cfg : Config) : State :=
  { cfg := cfg
    phase := .powerUnknown
    fault := none
    fn := { DL := cfg.bw == 8, N := Reg.unwritten false, F := Reg.unwritten false }
    ctl := { D := Reg.unwritten false, C := Reg.unwritten false, B := Reg.unwritten false }
    ent := { ID := Reg.unwritten false, SH := Reg.unwritten false }
    lineCount := Reg.unwritten 0
    currentLine := Reg.unwritten 0
    numCols := Reg.unwritten 0
    trace := []
    pending := []
    ret := none }

/-- The machine after reset: the block constructed with DIR4, the default TIMING and HD_ENC's values (log 3, log 5). -/
def State.reset : State := State.constructed Config.dir4

end Sys2Proof.Machine
end

