-- ==== Sys2Proof/Machine/Ops.lean ====
section
/-! DEFINITION. The named operations over the state: register reads and writes, `emit`, `raise`, the precondition
checks and the frame of an operation (00_scope.md R11 to R14, 60_exceptions.md R221 to R223). -/

namespace Sys2Proof.Machine

/-! ## Registers -/

/-- A register that has been written and holds `v`. -/
def Reg.holding {α : Type} (v : α) : Reg α := { value := v, written := true }

/-- Reading a register gives its last written value (00_scope.md R11). No reachable state reads ⊥ (10_state.md R41);
the value read then is the one beside the mark (log 4). -/
def Reg.read {α : Type} (r : Reg α) : α := r.value

/-- `phase <- p` -/
def State.setPhase (s : State) (p : Phase) : State := { s with phase := p }
/-- the `fault` register -/
def State.setFault (s : State) (f : Option FaultCode) : State := { s with fault := f }
/-- the group `fn` -/
def State.setFn (s : State) (f : FnFlags) : State := { s with fn := f }
/-- the group `ctl` -/
def State.setCtl (s : State) (c : CtlFlags) : State := { s with ctl := c }
/-- the group `ent` -/
def State.setEnt (s : State) (e : EntFlags) : State := { s with ent := e }
/-- `lineCount <- v` -/
def State.setLineCount (s : State) (v : Byte) : State := { s with lineCount := Reg.holding v }
/-- `currentLine <- v` -/
def State.setCurrentLine (s : State) (v : Byte) : State := { s with currentLine := Reg.holding v }
/-- `numCols <- v` -/
def State.setNumCols (s : State) (v : Byte) : State := { s with numCols := Reg.holding v }
/-- the host's queue (log 1) -/
def State.setPending (s : State) (q : List Instr) : State := { s with pending := q }
/-- the value handed back to the host (42_commands.md R184, log 7) -/
def State.setRet (s : State) (r : Option Nat) : State := { s with ret := r }

/-- `fn.N <- v` (10_state.md R28) -/
def State.setN (s : State) (v : Bool) : State := s.setFn { s.fn with N := Reg.holding v }
/-- `fn.F <- v` (10_state.md R28) -/
def State.setF (s : State) (v : Bool) : State := s.setFn { s.fn with F := Reg.holding v }
/-- `ctl.D <- v` (10_state.md R29) -/
def State.setD (s : State) (v : Bool) : State := s.setCtl { s.ctl with D := Reg.holding v }
/-- `ctl.C <- v` (10_state.md R29) -/
def State.setC (s : State) (v : Bool) : State := s.setCtl { s.ctl with C := Reg.holding v }
/-- `ctl.B <- v` (10_state.md R29) -/
def State.setB (s : State) (v : Bool) : State := s.setCtl { s.ctl with B := Reg.holding v }
/-- `ent.ID <- v` (10_state.md R30) -/
def State.setID (s : State) (v : Bool) : State := s.setEnt { s.ent with ID := Reg.holding v }
/-- `ent.SH <- v` (10_state.md R30) -/
def State.setSH (s : State) (v : Bool) : State := s.setEnt { s.ent with SH := Reg.holding v }

/-! ## The trace -/

/-- `emit` of each event in turn: they are appended to the trace (00_scope.md R12, 10_state.md R35). -/
def State.emit (s : State) (evs : List Event) : State := { s with trace := s.trace ++ evs }

/-- `emit Delay(T)` for a field of TIMING (00_scope.md R8, R12). -/
def delay (t : Timing → Nat) (s : State) : State := s.emit [.delay (t s.cfg.timing)]

/-! ## Faults -/

/-- `raise F(info)`: the fault register takes the code; nothing else changes (60_exceptions.md R221). There is no return
from it (R226). -/
def raise (f : FaultCode) (s : State) : State := s.setFault (some f)

/-- The number of a code in the table of 60_exceptions.md R222. -/
def FaultCode.number : FaultCode → Nat
  | .notReady _ => 1
  | .rebegin => 2
  | .badRows _ => 3
  | .badWidth _ => 4

/-! ## The frame of an operation -/

/-- Run an operation's actions in order. A raised fault ends the operation: "its remaining events are not emitted"
(60_exceptions.md R221). -/
def perform : List (State → State) → State → State
  | [], s => s
  | a :: rest, s => if s.fault = none then perform rest (a s) else s

/-- The result of a whole operation: its actions, and, if no fault ended it, the value it returns (42_commands.md R184). -/
def complete (returns : Option Nat) (actions : List (State → State)) (s : State) :
    Host.Outcome State Fault Refusal :=
  let t := perform actions s
  .next (if t.fault = none then t.setRet returns else t)

/-- The checks every operation begins with, in the order of 60_exceptions.md R223: with `fault` set there is no step; in
the wrong phase the operation raises `f` before it writes or emits anything. -/
def inPhase (p : Phase) (f : FaultCode) (op : State → Host.Outcome State Fault Refusal) (s : State) :
    Host.Outcome State Fault Refusal :=
  match s.fault with
  | some code => .fault (.blockFaulted code)
  | none => if s.phase = p then op s else .next (raise f s)

/-- The precondition of every operation but `begin` (42_commands.md R160). -/
def whenReady (name : OpName) (op : State → Host.Outcome State Fault Refusal) (s : State) :
    Host.Outcome State Fault Refusal :=
  inPhase .ready (.notReady name) op s

end Sys2Proof.Machine
end

