-- ==== Sys2Proof/Machine/Construct.lean ====
section
/-! DEFINITION. Construction, the block's reset (70_reset_and_hazards.md R240 to R242). It emits no event (R241). -/

namespace Sys2Proof.Machine

/-- Construct a block: an ill-formed WIRING is refused with CFG_INVALID and the first reason that applies in
60_exceptions.md R222's order (log 8); a TIMING below a bound is refused too (log 8); otherwise the block exists in the
state of 10_state.md R41. -/
def construct (cfg : Config) : Host.Outcome State Fault Refusal :=
  match cfg.wiring.problems cfg.srWordBits with
  | reason :: _ => .refused (.cfgInvalid reason)
  | [] => if cfg.timing.wf then .next (State.constructed cfg) else .refused .timingBelowBound

end Sys2Proof.Machine
end

