-- ==== Sys2Proof/Machine/Operands.lean ====
section
/-! DEFINITION. Operand assembly: bits and nibbles, the row clamp, address bytes, the shift word (30_encoding.md R86,
R87, 40_transmission.md R116, 42_commands.md R166, R181). -/

namespace Sys2Proof.Machine

/-- The level of a bit of a value, `bit(v, i)` (00_scope.md R10). -/
def bitLevel (v : Byte) (i : Nat) : Level := if v.getLsbD i then .high else .low

/-- The register-select level of a mode (00_scope.md R16, 30_encoding.md R80). -/
def rsLevel (m : Mode) : Level :=
  match m with
  | .command => .low
  | .data => .high

/-- `v >> 4` (40_transmission.md R116). -/
def highNibble (v : Byte) : Byte := v >>> 4

/-- `v & 0x0F` (40_transmission.md R116). -/
def lowNibble (v : Byte) : Byte := v &&& 0x0F

/-- ROW_OFFSET (10_state.md R34). Past its four entries, which no reachable state reads, the value is free (log 9). -/
def rowOffset (r : Nat) : Byte :=
  match r with
  | 0 => 0x00
  | 1 => 0x40
  | 2 => 0x14
  | 3 => 0x54
  | n + 4 => Config.rowOffsetBeyond n

/-- The row after clamping: `(row >= lineCount) ? lineCount - 1 : row` (42_commands.md R166). -/
def clampRow (row lineCount : Byte) : Nat :=
  if lineCount.toNat ≤ row.toNat then lineCount.toNat - 1 else row.toNat

/-- `ddram_byte(col, r) = DDADDR | ((col + ROW_OFFSET[r]) mod 128)`, the sum one of natural numbers (30_encoding.md R86). -/
def ddramByte (e : HdEnc) (col : Byte) (r : Nat) : Byte :=
  e.ddaddr ||| BitVec.ofNat 8 ((col.toNat + (rowOffset r).toNat) % 128)

/-- `cgram_byte(loc) = CGADDR | ((loc & 0x07) << 3)` (30_encoding.md R86). -/
def cgramByte (e : HdEnc) (location : Byte) : Byte := e.cgaddr ||| ((location &&& 0x07) <<< 3)

/-- The OR over `i` of `v[i] << dataPos[i]`, `i` counting up from the given index (30_encoding.md R87). -/
def dataBits (v : Byte) : Nat → List Pos → Nat
  | _, [] => 0
  | i, p :: ps => ((v.getLsbD i).toNat <<< p) ||| dataBits v (i + 1) ps

/-- `srword(v, m, w, e)`, a word of SR_WORD_BITS bits (30_encoding.md R87): register-select, the enable bit where it is
routed through the word, the read/write bit at the write level 0, and the low `w` bits of `v`; every other bit is 0. -/
def srWord (c : ShiftRegWiring) (srWordBits : Nat) (v : Byte) (m : Mode) (w : Nat) (e : Bool) : Nat :=
  ((decide (m = .data)).toNat <<< c.rsPos
    ||| (match c.enPos with | some p => e.toNat <<< p | none => 0)
    ||| (match c.rwPos with | some p => 0 <<< p | none => 0)
    ||| dataBits v 0 (c.dataPos.take w)) % 2 ^ srWordBits

end Sys2Proof.Machine
end

