-- ==== Sys2Proof/Machine/Flags.lean ====
section
/-! DEFINITION. The instruction bytes built from register fields (30_encoding.md R84): "encode to an instruction byte
only at the transmission boundary, never store the encoded byte itself" (10_state.md R36). -/

namespace Sys2Proof.Machine

/-- `enc_fn() = FUNC | (fn.DL << 4) | (fn.N << 3) | (fn.F << 2)`, FUNC and the places as HD_ENC has them. -/
def encFn (e : HdEnc) (f : FnFlags) : Byte :=
  e.func ||| flagAt f.DL e.bitDL ||| flagAt f.N.read e.bitN ||| flagAt f.F.read e.bitF

/-- `enc_ctl() = DISPCTL | (ctl.D << 2) | (ctl.C << 1) | ctl.B`, likewise. -/
def encCtl (e : HdEnc) (c : CtlFlags) : Byte :=
  e.dispctl ||| flagAt c.D.read e.bitD ||| flagAt c.C.read e.bitC ||| flagAt c.B.read e.bitB

/-- `enc_ent() = ENTRY | (ent.ID << 1) | ent.SH`, likewise. -/
def encEnt (e : HdEnc) (g : EntFlags) : Byte :=
  e.entry ||| flagAt g.ID.read e.bitID ||| flagAt g.SH.read e.bitSH

/-- `SHIFT_LEFT`: SC = 1, RL = 0 (30_encoding.md R83, R84). -/
def shiftLeftByte (e : HdEnc) : Byte := e.shift ||| flagAt true e.bitSC ||| flagAt false e.bitRL

/-- `SHIFT_RIGHT`: SC = 1, RL = 1 (30_encoding.md R83, R84). -/
def shiftRightByte (e : HdEnc) : Byte := e.shift ||| flagAt true e.bitSC ||| flagAt true e.bitRL

end Sys2Proof.Machine
end

