-- ==== Sys2Proof/Machine/Transmit.lean ====
section
/-! DEFINITION. The transmission multiplexer with the enable-pulse timing controller of each variant, and the 4/8-bit
splitter (40_transmission.md). -/

namespace Sys2Proof.Machine

/-! ## Direct -/

/-- `pulse_direct()` (40_transmission.md R103). -/
def pulseDirect (c : DirectWiring) (t : Timing) : List Event :=
  [.write c.en .low, .write c.en .high, .delay t.tEnHigh, .write c.en .low, .delay t.tSettle]

/-- The data-pin writes: bit `i` of `v` to `data[i]`, `i` ascending from the given index (40_transmission.md R102). -/
def dataWrites (v : Byte) : Nat → List Pin → List Event
  | _, [] => []
  | i, p :: ps => .write p (bitLevel v i) :: dataWrites v (i + 1) ps

/-- `tx_direct(v, m, w)` (40_transmission.md R102, R104). -/
def txDirect (c : DirectWiring) (t : Timing) (v : Byte) (m : Mode) (w : Nat) : List Event :=
  .write c.rs (rsLevel m) ::
    ((match c.rw with | some p => [.write p .low] | none => []) ++
      dataWrites v 0 (c.data.take w) ++
      pulseDirect c t)

/-! ## Shift-Register -/

/-- `pulse_sr_pin()` (40_transmission.md R107). -/
def pulseSrPin (enPin : Pin) (t : Timing) : List Event :=
  [.write enPin .high, .delay t.tEnHigh, .write enPin .low]

/-- `tx_sr(v, m, w)` (40_transmission.md R105, R106, R108). -/
def txShiftReg (c : ShiftRegWiring) (srWordBits : Nat) (t : Timing) (v : Byte) (m : Mode) (w : Nat) : List Event :=
  .shift c.sdata c.sclk (srWord c srWordBits v m w true) ::
    ((match c.latch with | some p => [.write p .low, .write p .high] | none => []) ++
      (match c.enPin with
        | some p => pulseSrPin p t
        | none => [.shift c.sdata c.sclk (srWord c srWordBits v m w false)]) ++
      [.delay t.tSettle])

/-! ## Callback -/

/-- `tx_cb(v, m, w)` (40_transmission.md R109). -/
def txCallback (t : Timing) (v : Byte) (m : Mode) (w : Nat) : List Event :=
  [.call v m w, .delay t.tSettle]

/-! ## The multiplexer -/

/-- The events of one transmission, by the variant of WIRING (40_transmission.md R101). -/
def txEvents (cfg : Config) (v : Byte) (m : Mode) (w : Nat) : List Event :=
  match cfg.wiring with
  | .direct c => txDirect c cfg.timing v m w
  | .shiftReg c => txShiftReg c cfg.srWordBits cfg.timing v m w
  | .callback _ => txCallback cfg.timing v m w

/-- `transmit(v, m, w)` (40_transmission.md R101): a width that is neither 4 nor 8 raises BAD_WIDTH, which no rule
reaches (log 16). -/
def transmit (v : Byte) (m : Mode) (w : Nat) (s : State) : State :=
  if w = 4 ∨ w = 8 then s.emit (txEvents s.cfg v m w) else raise (.badWidth w) s

/-! ## The splitter -/

/-- `send(v, m)`: one byte through the configured bit-width, high nibble first (40_transmission.md R115, R116). -/
def send (v : Byte) (m : Mode) (s : State) : State :=
  if s.cfg.bw = 8 then transmit v m 8 s
  else perform [transmit (highNibble v) m 4, transmit (lowNibble v) m 4] s

/-- `sendCmd(v) = send(v, Command)` (42_commands.md R161). -/
def sendCmd (v : Byte) (s : State) : State := send v .command s

/-- `sendData(v) = send(v, Data)` (42_commands.md R161). -/
def sendData (v : Byte) (s : State) : State := send v .data s

/-- Send an instruction byte built from the block's HD_ENC (30_encoding.md R82, R84, R86). -/
def sendInstr (byte : HdEnc → Byte) (s : State) : State := sendCmd (byte s.cfg.hdEnc) s

/-- `sendCmd(enc_fn())`, the fields read when the byte is built (42_commands.md R161). -/
def sendFn (s : State) : State := sendCmd (encFn s.cfg.hdEnc s.fn) s

/-- `sendCmd(enc_ctl())` (42_commands.md R161). -/
def sendCtl (s : State) : State := sendCmd (encCtl s.cfg.hdEnc s.ctl) s

/-- `sendCmd(enc_ent())` (42_commands.md R161). -/
def sendEnt (s : State) : State := sendCmd (encEnt s.cfg.hdEnc s.ent) s

end Sys2Proof.Machine
end

