-- ==== Sys2Proof/Machine/ClearHome.lean ====
section
/-! DEFINITION. `clear` and `home` (42_commands.md R164, R165). -/

namespace Sys2Proof.Machine

/-- `clear()` (42_commands.md R164). -/
def execClear (s : State) : Host.Outcome State Fault Refusal :=
  whenReady .clear (complete none [sendInstr HdEnc.clear, delay Timing.tClear]) s

/-- `home()` (42_commands.md R165). -/
def execHome (s : State) : Host.Outcome State Fault Refusal :=
  whenReady .home (complete none [sendInstr HdEnc.home, delay Timing.tClear]) s

end Sys2Proof.Machine
end

