-- ==== Sys2Proof/Machine/Display.lean ====
section
/-! DEFINITION. The display control family (42_commands.md R167 to R172): each writes one bit of `ctl` and re-sends the
display-control byte. -/

namespace Sys2Proof.Machine

/-- `noDisplay()` (42_commands.md R167). -/
def execNoDisplay (s : State) : Host.Outcome State Fault Refusal :=
  whenReady .noDisplay (complete none [fun s => s.setD false, sendCtl]) s

/-- `display()` (42_commands.md R168). -/
def execDisplay (s : State) : Host.Outcome State Fault Refusal :=
  whenReady .display (complete none [fun s => s.setD true, sendCtl]) s

/-- `noCursor()` (42_commands.md R169). DESIGN CHOICE (log 17, unsafe): an example in 30_encoding.md R94 has it send
`0:0x08` from `ctl = (1,0,0)`, at odds with R84, R89 and R169, which give `0:0x0C`; the model follows these. -/
def execNoCursor (s : State) : Host.Outcome State Fault Refusal :=
  whenReady .noCursor (complete none [fun s => s.setC false, sendCtl]) s

/-- `cursor()` (42_commands.md R170). -/
def execCursor (s : State) : Host.Outcome State Fault Refusal :=
  whenReady .cursor (complete none [fun s => s.setC true, sendCtl]) s

/-- `noBlink()` (42_commands.md R171). -/
def execNoBlink (s : State) : Host.Outcome State Fault Refusal :=
  whenReady .noBlink (complete none [fun s => s.setB false, sendCtl]) s

/-- `blink()` (42_commands.md R172). -/
def execBlink (s : State) : Host.Outcome State Fault Refusal :=
  whenReady .blink (complete none [fun s => s.setB true, sendCtl]) s

end Sys2Proof.Machine
end

