-- ==== Sys2Proof/Machine/Entry.lean ====
section
/-! DEFINITION. The entry mode family (42_commands.md R175 to R178): each writes one bit of `ent` and re-sends the
entry-mode byte. -/

namespace Sys2Proof.Machine

/-- `leftToRight()` (42_commands.md R175). -/
def execLeftToRight (s : State) : Host.Outcome State Fault Refusal :=
  whenReady .leftToRight (complete none [fun s => s.setID true, sendEnt]) s

/-- `rightToLeft()` (42_commands.md R176). -/
def execRightToLeft (s : State) : Host.Outcome State Fault Refusal :=
  whenReady .rightToLeft (complete none [fun s => s.setID false, sendEnt]) s

/-- `autoscroll()` (42_commands.md R177). -/
def execAutoscroll (s : State) : Host.Outcome State Fault Refusal :=
  whenReady .autoscroll (complete none [fun s => s.setSH true, sendEnt]) s

/-- `noAutoscroll()` (42_commands.md R178). -/
def execNoAutoscroll (s : State) : Host.Outcome State Fault Refusal :=
  whenReady .noAutoscroll (complete none [fun s => s.setSH false, sendEnt]) s

end Sys2Proof.Machine
end

