-- ==== Sys2Proof/Machine/Glyphs.lean ====
section
/-! DEFINITION. `createChar` (42_commands.md R179). -/

namespace Sys2Proof.Machine

/-- `createChar(location, glyph)`: the CGRAM address byte, then the eight rows as data in glyph order (42_commands.md
R179). -/
def execCreateChar (location : Byte) (glyph : Glyph) (s : State) : Host.Outcome State Fault Refusal :=
  whenReady .createChar
    (complete none (sendInstr (fun e => cgramByte e location) :: glyph.rows.map sendData)) s

end Sys2Proof.Machine
end

