-- ==== Sys2Proof/Machine/Init.lean ====
section
/-! DEFINITION. `begin` and its steps (41_initialization.md). -/

namespace Sys2Proof.Machine

/-- `init_registers(cols, rows, font)` (41_initialization.md R141). -/
def initRegisters (cols rows : Byte) (font : Font) (s : State) : State :=
  ((((s.setNumCols cols).setLineCount rows).setCurrentLine 0).setN (decide (2 ≤ rows.toNat))).setF
    (decide (font = .font5x10 ∧ rows = 1))

/-- The events of `init_pins()` (41_initialization.md R142). -/
def initPinsEvents (cfg : Config) : List Event :=
  match cfg.wiring with
  | .direct c =>
    .pinMode c.rs ::
      ((match c.rw with | some p => [.pinMode p] | none => []) ++
        .pinMode c.en :: (c.data.take c.bw).map .pinMode ++
        [.write c.en .low])
  | .shiftReg c =>
    .pinMode c.sdata :: .pinMode c.sclk ::
      ((match c.latch with | some p => [.pinMode p] | none => []) ++
        (match c.enPin with | some p => [.pinMode p, .write p .low] | none => []))
  | .callback _ => []

/-- `init_pins()` (41_initialization.md R142). -/
def initPins (s : State) : State := s.emit (initPinsEvents s.cfg)

/-- Step 2 for a 4-bit target, `force4()`: raw nibbles, each with its own settle delay before the step delay
(41_initialization.md R144). -/
def force4 (s : State) : State :=
  perform
    [transmit 0x03 .command 4, delay Timing.tInitLong,
     transmit 0x03 .command 4, delay Timing.tInitLong,
     transmit 0x03 .command 4, delay Timing.tInitShort,
     transmit 0x02 .command 4] s

/-- Step 2 for an 8-bit target, `force8()` (41_initialization.md R145). -/
def force8 (s : State) : State :=
  perform [sendFn, delay Timing.tInitLong, sendFn, delay Timing.tInitShort, sendFn] s

/-- Step 2, the one branch of the sequence (41_initialization.md R140, R150). -/
def forceWidth (s : State) : State := if s.cfg.bw = 4 then force4 s else force8 s

/-- Step 4, `init_display_on()` (41_initialization.md R147). -/
def initDisplayOn (s : State) : State := sendCtl (((s.setD true).setC false).setB false)

/-- Step 5, `init_clear()` (41_initialization.md R148). -/
def initClear (s : State) : State := perform [sendInstr HdEnc.clear, delay Timing.tClear] s

/-- Step 6, `init_entry()` (41_initialization.md R149). -/
def initEntry (s : State) : State := sendEnt ((s.setID true).setSH false)

/-- `phase <- Ready` (41_initialization.md R150). -/
def becomeReady (s : State) : State := s.setPhase .ready

/-- `begin(cols, rows, font)` (41_initialization.md R140): REBEGIN is checked before BAD_ROWS (60_exceptions.md R223). -/
def execBegin (cols rows : Byte) (font : Font) (s : State) : Host.Outcome State Fault Refusal :=
  inPhase .powerUnknown .rebegin
    (fun s =>
      if 1 ≤ rows.toNat ∧ rows.toNat ≤ 4 then
        complete none
          [initRegisters cols rows font, initPins, delay Timing.tPowerOn, forceWidth, sendFn,
           initDisplayOn, initClear, initEntry, becomeReady] s
      else .next (raise (.badRows rows) s)) s

end Sys2Proof.Machine
end

