-- ==== Sys2Proof/Machine/Position.lean ====
section
/-! DEFINITION. `setCursor` (42_commands.md R166). -/

namespace Sys2Proof.Machine

/-- `setCursor(col, row)`: the row saturates at `lineCount - 1`, the column is not clamped (42_commands.md R166). -/
def execSetCursor (col row : Byte) (s : State) : Host.Outcome State Fault Refusal :=
  whenReady .setCursor
    (complete none [fun s => sendInstr (fun e => ddramByte e col (clampRow row s.lineCount.read)) s]) s

end Sys2Proof.Machine
end

