-- ==== Sys2Proof/Machine/Raw.lean ====
section
/-! DEFINITION. The raw operations `command` and `write` (42_commands.md R162, R163). -/

namespace Sys2Proof.Machine

/-- `command(value)`: any byte, unchanged; no register changes and no extra delay (42_commands.md R162). -/
def execCommand (value : Byte) (s : State) : Host.Outcome State Fault Refusal :=
  whenReady .command (complete none [sendCmd value]) s

/-- `write(value)`: returns 1 (42_commands.md R163). -/
def execWrite (value : Byte) (s : State) : Host.Outcome State Fault Refusal :=
  whenReady .write (complete (some 1) [sendData value]) s

end Sys2Proof.Machine
end

