-- ==== Sys2Proof/Machine/Scroll.lean ====
section
/-! DEFINITION. The scroll operations (42_commands.md R173, R174): no register changes. -/

namespace Sys2Proof.Machine

/-- `scrollDisplayLeft()` (42_commands.md R173). -/
def execScrollDisplayLeft (s : State) : Host.Outcome State Fault Refusal :=
  whenReady .scrollDisplayLeft (complete none [sendInstr shiftLeftByte]) s

/-- `scrollDisplayRight()` (42_commands.md R174). -/
def execScrollDisplayRight (s : State) : Host.Outcome State Fault Refusal :=
  whenReady .scrollDisplayRight (complete none [sendInstr shiftRightByte]) s

end Sys2Proof.Machine
end

