-- ==== Sys2Proof/Machine/Dispatch.lean ====
section
/-! DEFINITION. The dispatch of operations to their meanings, in the opcode table's order. -/

namespace Sys2Proof.Machine

def exec (i : Instr) (s : State) : Host.Outcome State Fault Refusal :=
  match i with
  | .begin cols rows font => Sys2Proof.Machine.execBegin cols rows font s
  | .clear => Sys2Proof.Machine.execClear s
  | .home => Sys2Proof.Machine.execHome s
  | .setCursor col row => Sys2Proof.Machine.execSetCursor col row s
  | .noDisplay => Sys2Proof.Machine.execNoDisplay s
  | .display => Sys2Proof.Machine.execDisplay s
  | .noCursor => Sys2Proof.Machine.execNoCursor s
  | .cursor => Sys2Proof.Machine.execCursor s
  | .noBlink => Sys2Proof.Machine.execNoBlink s
  | .blink => Sys2Proof.Machine.execBlink s
  | .scrollDisplayLeft => Sys2Proof.Machine.execScrollDisplayLeft s
  | .scrollDisplayRight => Sys2Proof.Machine.execScrollDisplayRight s
  | .leftToRight => Sys2Proof.Machine.execLeftToRight s
  | .rightToLeft => Sys2Proof.Machine.execRightToLeft s
  | .autoscroll => Sys2Proof.Machine.execAutoscroll s
  | .noAutoscroll => Sys2Proof.Machine.execNoAutoscroll s
  | .createChar location glyph => Sys2Proof.Machine.execCreateChar location glyph s
  | .write value => Sys2Proof.Machine.execWrite value s
  | .command value => Sys2Proof.Machine.execCommand value s

end Sys2Proof.Machine
end

