-- ==== Sys2Proof/Machine/Step.lean ====
section
/-! DEFINITION. One step of the machine: the block runs the next operation the host has issued, whole (10_state.md R37,
20_memory.md R73; log 1, log 14). The block fetches nothing (20_memory.md R76): its "next instruction" is the head of the
host's queue. -/

namespace Sys2Proof.Machine

/-- Run the oldest operation the host has issued. With none issued the block does nothing (log 1). -/
def step (s : State) : Host.Outcome State Fault Refusal :=
  match s.pending with
  | [] => .next s
  | i :: rest => exec i (s.setPending rest)

/-- The host issues, as its next operation, the one the opcode table's word stands for (log 1, log 2). A word that is no
request issues nothing. -/
def State.withFetchWord (s : State) (nbits w : Nat) : State :=
  match decodeTableWord nbits w with
  | some i => s.setPending (i :: s.pending)
  | none => s

end Sys2Proof.Machine
end

