-- ==== Sys2Proof/Machine/Views.lean ====
section
/-! DEFINITION. Views: functions of a state or of a trace that no rule of the block reads, in which the rules and the
statements speak of it: the words an operation sends (30_encoding.md R89, R94), the states of the initialisation
sequence (41_initialization.md R151), the levels and words on the lines (10_state.md R40), the enable pulses
(40_transmission.md R111) and the blocking time (70_reset_and_hazards.md R252). -/

namespace Sys2Proof.Machine

/-! ## What an operation sends -/

/-- A bus word `{RS, b}` before it is split (30_encoding.md R80). -/
structure BusWord where
  mode : Mode
  byte : Byte
deriving DecidableEq, Repr

/-- The word as a 9-bit number, bit 8 = RS (30_encoding.md R80, R94). -/
def BusWord.bits (w : BusWord) : BitVec 9 := bus9 (decide (w.mode = .data)) w.byte

/-- The values of the transmissions that carry one byte, in order (40_transmission.md R115, R116). -/
def sendValues (bw : Nat) (v : Byte) : List Byte := if bw = 8 then [v] else [highNibble v, lowNibble v]

/-- The events of one byte sent through the configured bit-width (40_transmission.md R115). -/
def sendEvents (cfg : Config) (v : Byte) (m : Mode) : List Event :=
  (sendValues cfg.bw v).flatMap (fun n => txEvents cfg n m (if cfg.bw = 8 then 8 else 4))

/-- The bus words an operation other than `begin` sends from a state, in order: the expansions of 30_encoding.md R89.
`begin` sends raw nibbles too and has its own view, `beginStages`. -/
def opWords (i : Instr) (s : State) : List BusWord :=
  match i with
  | .begin _ _ _ => []
  | .clear => [⟨.command, s.cfg.hdEnc.clear⟩]
  | .home => [⟨.command, s.cfg.hdEnc.home⟩]
  | .setCursor col row => [⟨.command, ddramByte s.cfg.hdEnc col (clampRow row s.lineCount.read)⟩]
  | .noDisplay => [⟨.command, encCtl s.cfg.hdEnc { s.ctl with D := Reg.holding false }⟩]
  | .display => [⟨.command, encCtl s.cfg.hdEnc { s.ctl with D := Reg.holding true }⟩]
  | .noCursor => [⟨.command, encCtl s.cfg.hdEnc { s.ctl with C := Reg.holding false }⟩]
  | .cursor => [⟨.command, encCtl s.cfg.hdEnc { s.ctl with C := Reg.holding true }⟩]
  | .noBlink => [⟨.command, encCtl s.cfg.hdEnc { s.ctl with B := Reg.holding false }⟩]
  | .blink => [⟨.command, encCtl s.cfg.hdEnc { s.ctl with B := Reg.holding true }⟩]
  | .scrollDisplayLeft => [⟨.command, shiftLeftByte s.cfg.hdEnc⟩]
  | .scrollDisplayRight => [⟨.command, shiftRightByte s.cfg.hdEnc⟩]
  | .leftToRight => [⟨.command, encEnt s.cfg.hdEnc { s.ent with ID := Reg.holding true }⟩]
  | .rightToLeft => [⟨.command, encEnt s.cfg.hdEnc { s.ent with ID := Reg.holding false }⟩]
  | .autoscroll => [⟨.command, encEnt s.cfg.hdEnc { s.ent with SH := Reg.holding true }⟩]
  | .noAutoscroll => [⟨.command, encEnt s.cfg.hdEnc { s.ent with SH := Reg.holding false }⟩]
  | .createChar location glyph =>
    ⟨.command, cgramByte s.cfg.hdEnc location⟩ :: glyph.rows.map (fun b => ⟨.data, b⟩)
  | .write value => [⟨.data, value⟩]
  | .command value => [⟨.command, value⟩]

/-- The delay an operation adds after its words: `clear` and `home` alone (42_commands.md R164, R165). -/
def opTail (i : Instr) (t : Timing) : List Event :=
  match i.op with
  | .clear => [.delay t.tClear]
  | .home => [.delay t.tClear]
  | .begin | .setCursor | .noDisplay | .display | .noCursor | .cursor | .noBlink | .blink | .scrollDisplayLeft
  | .scrollDisplayRight | .leftToRight | .rightToLeft | .autoscroll | .noAutoscroll | .createChar | .write
  | .command => []

/-- The events of bus words sent one after the other. -/
def wordEvents (cfg : Config) (ws : List BusWord) : List Event := ws.flatMap (fun w => sendEvents cfg w.byte w.mode)

/-! ## The states of the initialisation sequence -/

/-- The source's states (10_state.md R26, 41_initialization.md R151). -/
inductive InitState where
  | powerUnknown
  | forcingEightBit
  | functionSetCommitted
  | displayOn
  | cleared
  | entryModeSet
  | ready
deriving DecidableEq, Repr

/-- One raw nibble of `force4()` and the delay after it, if any (41_initialization.md R144). -/
def rawNibble (cfg : Config) (v : Byte) (after : List Nat) : List Event :=
  txEvents cfg v .command 4 ++ after.map Event.delay

/-- One byte of the sequence and the delay after it, if any (41_initialization.md R145 to R149). -/
def rawByte (cfg : Config) (v : Byte) (after : List Nat) : List Event :=
  sendEvents cfg v .command ++ after.map Event.delay

/-- Steps 2 and 3 with the states they fall in (41_initialization.md R144 to R146, R151). -/
def forceStages (cfg : Config) (fnByte : Byte) : List (InitState × List Event) :=
  if cfg.bw = 4 then
    [(InitState.forcingEightBit,
      List.flatten [rawNibble cfg 0x03 [cfg.timing.tInitLong], rawNibble cfg 0x03 [cfg.timing.tInitLong],
        rawNibble cfg 0x03 [cfg.timing.tInitShort]]),
     (InitState.functionSetCommitted, List.flatten [rawNibble cfg 0x02 [], rawByte cfg fnByte []])]
  else
    [(InitState.functionSetCommitted,
      List.flatten [rawByte cfg fnByte [cfg.timing.tInitLong], rawByte cfg fnByte [cfg.timing.tInitShort],
        rawByte cfg fnByte [], rawByte cfg fnByte []])]

/-- The display-control group `begin` leaves: display on, no cursor, no blink (41_initialization.md R147). -/
def ctlAfterBegin : CtlFlags := { D := Reg.holding true, C := Reg.holding false, B := Reg.holding false }

/-- The entry-mode group `begin` leaves: left to right, no autoscroll (41_initialization.md R149). -/
def entAfterBegin : EntFlags := { ID := Reg.holding true, SH := Reg.holding false }

/-- The events of `begin`, cut where 41_initialization.md R151 says one state ends and the next begins; `fnByte` is the
function-set byte. -/
def beginStages (cfg : Config) (fnByte : Byte) : List (InitState × List Event) :=
  (InitState.powerUnknown, List.append (initPinsEvents cfg) [Event.delay cfg.timing.tPowerOn]) ::
    List.append (forceStages cfg fnByte)
      [(InitState.displayOn, rawByte cfg (encCtl cfg.hdEnc ctlAfterBegin) []),
       (InitState.cleared, rawByte cfg cfg.hdEnc.clear [cfg.timing.tClear]),
       (InitState.entryModeSet, rawByte cfg (encEnt cfg.hdEnc entAfterBegin) []),
       (InitState.ready, [])]

/-- All events of `begin`. -/
def beginEvents (cfg : Config) (fnByte : Byte) : List Event := (beginStages cfg fnByte).flatMap (fun p => p.2)

/-! ## Lines -/

/-- What a pin holds after some events, from what it held before (10_state.md R40 (b)). -/
def levelFrom (p : Pin) : Option Level → List Event → Option Level
  | cur, [] => cur
  | cur, e :: rest =>
    match e with
    | .write q l => levelFrom p (if q = p then some l else cur) rest
    | .pinMode _ | .shift _ _ _ | .delay _ | .call _ _ _ => levelFrom p cur rest

/-- `level(trace, p)`: the level of the last `Write(p, l)`, none if there is none (10_state.md R40 (b)). -/
def level (trace : List Event) (p : Pin) : Option Level := levelFrom p none trace

/-- The word the shift register holds after some events (10_state.md R40 (c)). -/
def shiftContentsFrom : Option Nat → List Event → Option Nat
  | cur, [] => cur
  | cur, e :: rest =>
    match e with
    | .shift _ _ word => shiftContentsFrom (some word) rest
    | .pinMode _ | .write _ _ | .delay _ | .call _ _ _ => shiftContentsFrom cur rest

/-- The word last shifted out (10_state.md R40 (c)). -/
def shiftContents (trace : List Event) : Option Nat := shiftContentsFrom none trace

/-- The latch's output after some events: a rise of the latch pin commits the word then in the register (40_transmission.md
R106). The three running values are the register's word, the latch pin's level and the output. -/
def latchContentsFrom (latch : Pin) : Option Nat → Option Level → Option Nat → List Event → Option Nat
  | _, _, out, [] => out
  | word, lvl, out, e :: rest =>
    match e with
    | .shift _ _ w => latchContentsFrom latch (some w) lvl out rest
    | .write q l =>
      if q = latch then
        latchContentsFrom latch word (some l) (if lvl = some .low ∧ l = .high then word else out) rest
      else latchContentsFrom latch word lvl out rest
    | .pinMode _ | .delay _ | .call _ _ _ => latchContentsFrom latch word lvl out rest

/-- The word last committed by the latch (10_state.md R40 (c)). -/
def latchContents (trace : List Event) (latch : Pin) : Option Nat := latchContentsFrom latch none none none trace

/-- The word on the shift register's output lines: the latch's where there is one. Between two `shift` events the
outputs of a latch-less register are not represented (70_reset_and_hazards.md R249 (b)). -/
def outputWord (c : ShiftRegWiring) (trace : List Event) : Option Nat :=
  match c.latch with
  | some l => latchContents trace l
  | none => shiftContents trace

/-- The enable line after a trace: high, low, or never driven. -/
def enableLevel (w : Wiring) (trace : List Event) : Option Bool :=
  match w with
  | .direct c => (level trace c.en).map (fun l => l == .high)
  | .shiftReg c =>
    match c.enPin, c.enPos with
    | some p, _ => (level trace p).map (fun l => l == .high)
    | none, some q => (outputWord c trace).map (fun word => word.testBit q)
    | none, none => none
  | .callback _ => none

/-- What the controller finds on its lines: register-select, then the data lines from bit 0 up. -/
def lineValues (w : Wiring) (trace : List Event) : Option Bool × List (Option Bool) :=
  match w with
  | .direct c =>
    ((level trace c.rs).map (fun l => l == .high), c.data.map (fun p => (level trace p).map (fun l => l == .high)))
  | .shiftReg c =>
    ((outputWord c trace).map (fun word => word.testBit c.rsPos),
      c.dataPos.map (fun q => (outputWord c trace).map (fun word => word.testBit q)))
  | .callback _ => (none, [])

/-- The line values at each rise of enable during some events that follow an earlier trace. A pin-driven transmission
"commits a presented nibble/byte" by such a pulse (00_scope.md R16). -/
def riseSamples (w : Wiring) : List Event → List Event → List (Option Bool × List (Option Bool))
  | _, [] => []
  | earlier, e :: rest =>
    let now := earlier ++ [e]
    if enableLevel w earlier ≠ some true ∧ enableLevel w now = some true then
      lineValues w now :: riseSamples w now rest
    else riseSamples w now rest

/-- The falls of enable during some events that follow an earlier trace. -/
def fallCount (w : Wiring) : List Event → List Event → Nat
  | _, [] => 0
  | earlier, e :: rest =>
    let now := earlier ++ [e]
    (if enableLevel w earlier = some true ∧ enableLevel w now ≠ some true then 1 else 0) + fallCount w now rest

/-- The number of enable pulses a trace has delivered; its parity, from the first transmission the controller takes as
a nibble, is the controller's nibble phase (10_state.md R40 (a)). A callback owes one pulse per call (R111). -/
def pulseCount (w : Wiring) (trace : List Event) : Nat :=
  match w with
  | .callback _ => trace.countP (fun e => match e with | .call _ _ _ => true | _ => false)
  | .direct _ | .shiftReg _ => (riseSamples w [] trace).length

/-- What the controller reads of one transmission of the low `n` bits of `v` under mode `m`: bit `i` on data line `i`
(20_memory.md R65). -/
def heardAs (m : Mode) (v : Byte) (n : Nat) : Option Bool × List (Option Bool) :=
  (some (decide (m = .data)), (List.range n).map (fun i => some (v.getLsbD i)))

/-- What the controller reads of bus words (20_memory.md R65, R66). -/
def wordsHeard (bw : Nat) (ws : List BusWord) : List (Option Bool × List (Option Bool)) :=
  ws.flatMap (fun w => (sendValues bw w.byte).map (fun v => heardAs w.mode v bw))

/-- The bits of a shift word in the order they leave: most significant first (20_memory.md R67). -/
def serialBits (srWordBits word : Nat) : List Bool :=
  (List.range srWordBits).map (fun k => word.testBit (srWordBits - 1 - k))

/-- A word with the bits at some positions cleared. -/
def clearBits (ps : List Pos) (word : Nat) : Nat := word ^^^ (word &&& ps.foldr (fun p mask => 1 <<< p ||| mask) 0)

/-- An event without the values its data lines carry: the level of a write to a data pin of a Direct wiring, the data bits
of a shift word and the value of a call. All else stays: the levels of register-select, read/write, enable and latch, the
other bits of a shift word, pins, delays, modes and widths. -/
def Event.shape (wiring : Wiring) (ev : Event) : Event :=
  match ev, wiring with
  | .write p l, .direct c => .write p (if p ∈ c.data then .low else l)
  | .write p l, .shiftReg _ => .write p l
  | .write p l, .callback _ => .write p l
  | .shift dp cp word, .shiftReg c => .shift dp cp (clearBits c.dataPos word)
  | .shift dp cp word, .direct _ => .shift dp cp word
  | .shift dp cp word, .callback _ => .shift dp cp word
  | .call _ m w, _ => .call 0 m w
  | .pinMode p, _ => .pinMode p
  | .delay n, _ => .delay n

/-! ## Time -/

/-- The minimum blocking time: the sum of the `Delay` events (70_reset_and_hazards.md R252). -/
def blockingTime : List Event → Nat
  | [] => 0
  | e :: rest =>
    match e with
    | .delay n => n + blockingTime rest
    | .pinMode _ | .write _ _ | .shift _ _ _ | .call _ _ _ => blockingTime rest

end Sys2Proof.Machine
end

