-- ==== Sys2Proof/Safety.lean ====
section
/-! DEFINITION. The terms claims are stated in: the block's phases of life, and the invariants that every step keeps. -/

namespace Sys2Proof.Machine

/-- An operation of 42_commands.md may run: no fault, and `begin` has completed. -/
abbrev State.isReady (s : State) : Prop := s.fault = none ∧ s.phase = .ready

/-- `begin` may run: no fault, and it has not run yet. -/
abbrev State.isFresh (s : State) : Prop := s.fault = none ∧ s.phase = .powerUnknown

/-- The registers that hold ⊥ at construction (10_state.md R41) are all written, or none is. -/
abbrev State.marks (s : State) (w : Bool) : Prop :=
  s.fn.N.written = w ∧ s.fn.F.written = w ∧ s.ctl.D.written = w ∧ s.ctl.C.written = w ∧ s.ctl.B.written = w ∧
    s.ent.ID.written = w ∧ s.ent.SH.written = w ∧ s.lineCount.written = w ∧ s.currentLine.written = w ∧
    s.numCols.written = w

/-- The register invariant: `fn.DL` is as construction set it (10_state.md R28); while `Ready`, the four parts of R42;
before, the block is as constructed: every such register ⊥ and no event emitted (R41, 70_reset_and_hazards.md R241). -/
abbrev State.registersOk (s : State) : Prop :=
  s.fn.DL = decide (s.cfg.bw = 8) ∧
  (s.phase = .ready →
    1 ≤ s.lineCount.read.toNat ∧ s.lineCount.read.toNat ≤ 4 ∧
    s.fn.N.read = decide (2 ≤ s.lineCount.read.toNat) ∧
    (s.fn.F.read = true → s.lineCount.read = 1) ∧
    s.currentLine.read = 0 ∧
    s.marks true) ∧
  (s.phase = .powerUnknown → s.marks false ∧ s.trace = [])

/-- The fault register holds only what an operation can have raised in the phase the block is in (60_exceptions.md R222). -/
def FaultCode.fitsPhase (p : Phase) : FaultCode → Prop
  | .notReady op => p = .powerUnknown ∧ op ≠ .begin
  | .rebegin => p = .ready
  | .badRows rows => p = .powerUnknown ∧ ¬ (1 ≤ rows.toNat ∧ rows.toNat ≤ 4)
  | .badWidth _ => False

/-- Every code in the fault register fits the phase. -/
def State.faultOk (s : State) : Prop := ∀ code, s.fault = some code → code.fitsPhase s.phase

/-- The delays the block issues: fields of TIMING (60_exceptions.md R228). -/
def timingFields (t : Timing) : List Nat := [t.tPowerOn, t.tInitLong, t.tInitShort, t.tEnHigh, t.tSettle, t.tClear]

/-- An event the block may emit under a configuration: it drives its own pins and no other (20_memory.md R63), a shift
word has SR_WORD_BITS bits (R64), a delay is a field of TIMING (60_exceptions.md R228), a call has the configured width
and a value below 16 in 4-bit mode (40_transmission.md R109, R117). -/
def Event.allowed (cfg : Config) (e : Event) : Prop :=
  match e, cfg.wiring with
  | .delay n, _ => n ∈ timingFields cfg.timing
  | .pinMode p, w => p ∈ w.pins
  | .write p _, .direct c => p ∈ (Wiring.direct c).pins
  | .write p _, .shiftReg c => c.latch = some p ∨ c.enPin = some p
  | .write _ _, .callback _ => False
  | .shift dp cp word, .shiftReg c => dp = c.sdata ∧ cp = c.sclk ∧ word < 2 ^ cfg.srWordBits
  | .shift _ _ _, .direct _ => False
  | .shift _ _ _, .callback _ => False
  | .call v _ w, .callback c => w = c.bw ∧ v.toNat < 2 ^ c.bw
  | .call _ _ _, .direct _ => False
  | .call _ _ _, .shiftReg _ => False

/-- Every event of the trace is one the block may emit. -/
def State.traceOk (s : State) : Prop := ∀ e ∈ s.trace, e.allowed s.cfg

/-- Between operations enable is not high: every pulse has ended (40_transmission.md R103, R107, R108). -/
def State.enableIdle (s : State) : Prop := enableLevel s.cfg.wiring s.trace ≠ some true

/-- Apply a function to the state of a next outcome; a stop is left as it is. -/
def mapNext (f : State → State) (o : Host.Outcome State Fault Refusal) : Host.Outcome State Fault Refusal :=
  match o with
  | .next t => .next (f t)
  | .fault r => .fault r
  | .refused r => .refused r

/-- The blocking time of one transmission, `P` of 70_reset_and_hazards.md R252. -/
def transmissionTime (cfg : Config) : Nat :=
  match cfg.wiring with
  | .direct _ => cfg.timing.tSettle + cfg.timing.tEnHigh
  | .shiftReg c => cfg.timing.tSettle + (if c.enPin.isSome then cfg.timing.tEnHigh else 0)
  | .callback _ => cfg.timing.tSettle

/-- The lines are driven by the block itself, not by a callback. -/
def drivesPins (cfg : Config) : Bool :=
  match cfg.wiring with
  | .direct _ => true
  | .shiftReg _ => true
  | .callback _ => false

/-- The three places HD_ENC gives the display-control fields are bits of a byte, differ, and are 0 in the opcode. -/
abbrev ctlBitsApart (e : HdEnc) : Prop :=
  e.bitD < 8 ∧ e.bitC < 8 ∧ e.bitB < 8 ∧ [e.bitD, e.bitC, e.bitB].Nodup ∧
    ∀ n ∈ [e.bitD, e.bitC, e.bitB], e.dispctl.getLsbD n = false

/-- The same of the entry-mode fields. -/
abbrev entBitsApart (e : HdEnc) : Prop :=
  e.bitID < 8 ∧ e.bitSH < 8 ∧ [e.bitID, e.bitSH].Nodup ∧ ∀ n ∈ [e.bitID, e.bitSH], e.entry.getLsbD n = false

/-- The block with another HD_ENC. -/
def State.withHdEnc (s : State) (e : HdEnc) : State := { s with cfg := { s.cfg with hdEnc := e } }

/-- The line values the controller has found at the enable pulses of a trace, a pin-driven variant's; with a callback it
is the callback that drives the lines (40_transmission.md R110). -/
def State.heard (s : State) : List (Option Bool × List (Option Bool)) := riseSamples s.cfg.wiring [] s.trace

end Sys2Proof.Machine
end

