-- ==== Sys2Proof/Certificates/Slice0/Obligations.lean ====
section
/-! DEFINITION. The statements for the provers. A statement that rests on one of the spec's own decisions (D<n> of
92_eei_decisions.md), on its general-knowledge table (I1 of 93_implementation_defined.md) or on a choice of the model
(log <n>) says so in its docstring. -/

open Sys2Proof Sys2Proof.Machine

/-! ## Encoding -/

/-- Decoding the encoding of any operation, with any operands and any bytes after it, gives it back. The byte form is
the model's own choice (log 2); every operation is well-formed (30_encoding.md R90). -/
def Obligations.DecodeOfEncode : Prop :=
  ∀ (i : Instr) (rest : List Byte), decode (encode i ++ rest) = .ok (i, rest)

/-- Words of the opcode table decode to operations of their rows, one or more per family. Which operation a word that
several send stands for, and the byte form, are the model's choice (log 2). -/
def Obligations.TableWordsDecode : Prop :=
  decodeTableWord 16 0b000000001 = some .clear ∧
  decodeTableWord 16 0b000000010 = some .home ∧
  decodeTableWord 16 0b010000101 = some (.setCursor 5 0) ∧
  decodeTableWord 16 0b000001000 = some .noDisplay ∧
  decodeTableWord 16 0b000001100 = some .display ∧
  decodeTableWord 16 0b000011000 = some .scrollDisplayLeft ∧
  decodeTableWord 16 0b000011100 = some .scrollDisplayRight ∧
  decodeTableWord 16 0b000000110 = some .leftToRight ∧
  decodeTableWord 16 0b001010000 = some (.createChar 2 ⟨0, 0, 0, 0, 0, 0, 0, 0⟩) ∧
  decodeTableWord 16 0b101000001 = some (.write 0x41) ∧
  decodeTableWord 16 0b000101000 = some (.begin 0 2 .font5x8) ∧
  decodeTableWord 16 0b000000000 = some (.command 0) ∧
  decode [0x28, 0x02, 16, 2, 0] = .ok (.begin 16 2 .font5x8, [])

/-- The word an operation sends fits its row of the opcode table, from every state whose HD_ENC is the spec's:
30_encoding.md R94. `createChar`'s further words are data words; the row of `begin` is its function-set byte. The values
are general knowledge (I1, log 5). -/
def Obligations.SentWordFitsTableRow : Prop :=
  (∀ (i : Instr) (s : State) (w : BusWord) (ws : List BusWord), s.cfg.hdEnc = HdEnc.standard →
    opWords i s = w :: ws →
    i.op.tableRow.fits w.bits = true ∧ ∀ x ∈ ws, x.bits.getLsbD 8 = true) ∧
  (∀ f : FnFlags, OpName.begin.tableRow.fits (bus9 false (encFn HdEnc.standard f)) = true)

/-- The instruction bytes for every value of the register fields (30_encoding.md R84; the tables of 95_test_vectors.md
section 2.3), HD_ENC having the spec's values, which are general knowledge (I1, log 5). -/
def Obligations.InstructionBytes : Prop :=
  (∀ c : CtlFlags, (encCtl HdEnc.standard c).toNat = 8 + 4 * c.D.read.toNat + 2 * c.C.read.toNat + c.B.read.toNat) ∧
  (∀ g : EntFlags, (encEnt HdEnc.standard g).toNat = 4 + 2 * g.ID.read.toNat + g.SH.read.toNat) ∧
  (∀ f : FnFlags,
    (encFn HdEnc.standard f).toNat = 32 + 16 * f.DL.toNat + 8 * f.N.read.toNat + 4 * f.F.read.toNat) ∧
  shiftLeftByte HdEnc.standard = 0x18 ∧ shiftRightByte HdEnc.standard = 0x1C ∧
  HdEnc.standard.clear = 0x01 ∧ HdEnc.standard.home = 0x02

/-- The address bytes (30_encoding.md R86): the DDRAM byte is `0x80 | sum` truncated to 8 bits (the spec's decision D21),
with bit 7 set; the CGRAM byte is 0x40 plus eight times the low three bits of the location. HD_ENC has the spec's values,
which are general knowledge (I1, log 5). -/
def Obligations.AddressBytes : Prop :=
  (∀ (col : Byte) (r : Nat), r < 4 →
    ddramByte HdEnc.standard col r =
      BitVec.ofNat 8 (0x80 ||| (col.toNat + (([0x00, 0x40, 0x14, 0x54] : List Nat)[r]?).getD 0)) ∧
    (ddramByte HdEnc.standard col r).getLsbD 7 = true) ∧
  (∀ location : Byte, (cgramByte HdEnc.standard location).toNat = 0x40 + 8 * (location.toNat % 8))

/-- The shift word, bit by bit (30_encoding.md R87, R92), for a well-formed wiring and a width within it: register-select,
enable, read/write (the spec's decision D10), the data bits each at its position, and 0 everywhere else. -/
def Obligations.ShiftWordBits : Prop :=
  ∀ (c : ShiftRegWiring) (n : Nat) (v : Byte) (m : Mode) (w : Nat) (e : Bool),
    (Wiring.shiftReg c).wf n → w ≤ c.bw →
    (srWord c n v m w e).testBit c.rsPos = decide (m = .data) ∧
    (∀ q, c.enPos = some q → (srWord c n v m w e).testBit q = e) ∧
    (∀ q, c.rwPos = some q → (srWord c n v m w e).testBit q = false) ∧
    (∀ i q, i < w → c.dataPos[i]? = some q → (srWord c n v m w e).testBit q = v.getLsbD i) ∧
    (∀ q, q ≠ c.rsPos → c.enPos ≠ some q → (∀ i, i < w → c.dataPos[i]? ≠ some q) →
      (srWord c n v m w e).testBit q = false) ∧
    srWord c n v m w e < 2 ^ n

/-! ## Construction and the host -/

/-- A construction with an admissible TIMING succeeds exactly when WIRING meets the conditions of its variant
(10_state.md R21 to R24, 70_reset_and_hazards.md R240; the spec's decisions D11, D12, D34), whatever its HD_ENC. -/
def Obligations.ConstructionSucceedsExactlyWhenWellFormed : Prop :=
  ∀ (t : Timing) (n : Nat) (e : HdEnc), t.wf →
    (∀ c : DirectWiring, (∃ s, construct ⟨.direct c, t, n, e⟩ = .next s) ↔
      ((c.bw = 4 ∨ c.bw = 8) ∧ c.data.length = c.bw ∧ c.data.Nodup ∧ c.rs ≠ c.en ∧ c.rs ∉ c.data ∧ c.en ∉ c.data ∧
        ∀ p, c.rw = some p → p ≠ c.rs ∧ p ≠ c.en ∧ p ∉ c.data)) ∧
    (∀ c : ShiftRegWiring, (∃ s, construct ⟨.shiftReg c, t, n, e⟩ = .next s) ↔
      ((c.bw = 4 ∨ c.bw = 8) ∧ c.dataPos.length = c.bw ∧
        (c.enPin.isSome = true ↔ c.enPos = none) ∧ (c.latch.isSome = true → c.enPin.isSome = true) ∧
        c.sdata ≠ c.sclk ∧ (∀ p, c.latch = some p ∨ c.enPin = some p → p ≠ c.sdata ∧ p ≠ c.sclk) ∧
        (∀ p, c.latch = some p → c.enPin ≠ some p) ∧
        (∀ p ∈ c.positions, p < n) ∧ c.positions.Nodup)) ∧
    (∀ c : CallbackWiring, (∃ s, construct ⟨.callback c, t, n, e⟩ = .next s) ↔ (c.bw = 4 ∨ c.bw = 8))

/-- A refused construction names a condition that does fail (60_exceptions.md R222). Which one, where several fail, is
the model's choice (log 8, R223). -/
def Obligations.RefusalNamesAFailingCondition : Prop :=
  ∀ (cfg : Config) (r : CfgReason), construct cfg = .refused (.cfgInvalid r) →
    match r, cfg.wiring with
    | .bw, w => w.bw ≠ 4 ∧ w.bw ≠ 8
    | .dataLen, .direct c => c.data.length ≠ c.bw
    | .dataLen, .shiftReg c => c.dataPos.length ≠ c.bw
    | .pinDup, w => ¬ w.pins.Nodup
    | .enChoice, .shiftReg c => (c.enPin.isSome = true ∧ c.enPos.isSome = true) ∨ (c.enPin = none ∧ c.enPos = none)
    | .latchEn, .shiftReg c => c.latch.isSome = true ∧ c.enPin = none
    | .posRange, .shiftReg c => ∃ p ∈ c.positions, cfg.srWordBits ≤ p
    | .posDup, .shiftReg c => ¬ c.positions.Nodup
    | _, _ => False

/-- With a word of 8 bits (the default) or fewer no 8-bit Shift-Register block can be constructed: nine distinct positions
below 8 do not exist (10_state.md R22, 95_test_vectors.md F11). -/
def Obligations.EightBitShiftRegisterNeedsAWiderWord : Prop :=
  ∀ (c : ShiftRegWiring) (t : Timing) (n : Nat) (e : HdEnc), c.bw = 8 → n ≤ 8 →
    ∃ r, construct ⟨.shiftReg c, t, n, e⟩ = .refused r

/-- A constructed block is in the state of 10_state.md R41: `PowerUnknown`, no fault, `fn.DL = (BW = 8)`, every other
register ⊥, no event (the spec's decision D16). The value beside a ⊥ mark is not spoken of (log 4). -/
def Obligations.ConstructedBlockIsReset : Prop :=
  (∀ (cfg : Config) (s : State), construct cfg = .next s →
    s.cfg = cfg ∧ s.phase = .powerUnknown ∧ s.fault = none ∧ s.fn.DL = decide (cfg.bw = 8) ∧ s.marks false ∧
    s.trace = []) ∧
  construct Config.dir4 = .next State.reset

/-- A step runs the operation the host issued first, on the state without it; with none issued the block stays as it is;
and a word the decoder reads is run by the very next step. The queue is the model's choice (log 1). -/
def Obligations.StepRunsTheIssuedOperation : Prop :=
  (∀ (s : State) (i : Instr) (rest : List Instr), s.pending = i :: rest →
    step s = exec i { s with pending := rest }) ∧
  (∀ s : State, s.pending = [] → step s = .next s) ∧
  (∀ (s : State) (nbits w : Nat) (i : Instr), decodeTableWord nbits w = some i →
    step (s.withFetchWord nbits w) = exec i s)

/-! ## Faults -/

/-- Before `begin` has completed, every other operation sets NOT_READY with its name and does nothing else
(42_commands.md R160, 60_exceptions.md R221; the spec's decision D17). -/
def Obligations.OperationsBeforeBeginAreNotReady : Prop :=
  ∀ (i : Instr) (s : State), i.op ≠ .begin → s.isFresh →
    exec i s = .next { s with fault := some (.notReady i.op) }

/-- `begin` with `rows` outside 1..4 sets BAD_ROWS, and a second `begin` sets REBEGIN whatever its operands; neither does
anything else (41_initialization.md R140, 60_exceptions.md R222, R223; the spec's decisions D18, D19, D25). -/
def Obligations.BeginContractFaults : Prop :=
  (∀ (cols rows : Byte) (font : Font) (s : State), s.isFresh → rows = 0 ∨ 4 < rows.toNat →
    exec (.begin cols rows font) s = .next { s with fault := some (.badRows rows) }) ∧
  (∀ (cols rows : Byte) (font : Font) (s : State), s.isReady →
    exec (.begin cols rows font) s = .next { s with fault := some .rebegin })

/-- While `fault` is set no operation has a step (60_exceptions.md R221, R223, R226; the spec's decision D24; that the
model says so by a fault outcome is log 6). -/
def Obligations.FaultedBlockHasNoStep : Prop :=
  ∀ (i : Instr) (s : State) (code : FaultCode), s.fault = some code → exec i s = .fault (.blockFaulted code)

/-- A transmission whose width is neither 4 nor 8 raises BAD_WIDTH and emits nothing, and whatever the operation would
still do is not done (40_transmission.md R101, 60_exceptions.md R221; the spec's decision D24; log 16). -/
def Obligations.BadWidthEndsAnOperation : Prop :=
  ∀ (v : Byte) (m : Mode) (w : Nat) (before after : List (State → State)) (s : State),
    w ≠ 4 → w ≠ 8 → (perform before s).fault = none →
    perform (before ++ transmit v m w :: after) s = { perform before s with fault := some (.badWidth w) }

/-! ## Operations: what each does, and that it completes -/

/-- `begin` completes from every fresh state with `rows` in 1..4: registers, the whole event sequence cut at the source's
states, and `Ready` at the end (41_initialization.md R140 to R151; the spec's decisions D4, D5, D6, D16, D22, D23, D38
fix parts of it), for every HD_ENC. -/
def Obligations.BeginCompletes : Prop :=
  ∀ (cols rows : Byte) (font : Font) (s : State), s.isFresh → 1 ≤ rows.toNat → rows.toNat ≤ 4 →
    let fn : FnFlags :=
      { DL := s.fn.DL
        N := Reg.holding (decide (2 ≤ rows.toNat))
        F := Reg.holding (decide (font = .font5x10 ∧ rows = 1)) }
    exec (.begin cols rows font) s = .next
      { s with
        phase := .ready
        fn := fn
        ctl := { D := Reg.holding true, C := Reg.holding false, B := Reg.holding false }
        ent := { ID := Reg.holding true, SH := Reg.holding false }
        lineCount := Reg.holding rows
        currentLine := Reg.holding 0
        numCols := Reg.holding cols
        trace := s.trace ++ beginEvents s.cfg (encFn s.cfg.hdEnc fn)
        ret := none }

/-- `command` and `write` send their byte unchanged and complete in every ready state; `write` returns 1 (42_commands.md
R162, R163, R184; that `command` is a host operation is the spec's decision D29). -/
def Obligations.RawOperationsSendTheirByte : Prop :=
  ∀ (value : Byte) (s : State), s.isReady →
    exec (.command value) s =
      .next { s with trace := s.trace ++ sendEvents s.cfg value .command, ret := none } ∧
    exec (.write value) s =
      .next { s with trace := s.trace ++ sendEvents s.cfg value .data, ret := some 1 }

/-- `clear` and `home` send their byte and then wait T_CLEAR, in every ready state; no register changes (42_commands.md
R164, R165). The bytes are HD_ENC's, whose values in the spec are general knowledge (I1, log 5). -/
def Obligations.ClearAndHomeSendAndWait : Prop :=
  (∀ s : State, s.isReady →
    exec .clear s =
      .next { s with
        trace := s.trace ++ sendEvents s.cfg s.cfg.hdEnc.clear .command ++ [.delay s.cfg.timing.tClear], ret := none } ∧
    exec .home s =
      .next { s with
        trace := s.trace ++ sendEvents s.cfg s.cfg.hdEnc.home .command ++ [.delay s.cfg.timing.tClear], ret := none }) ∧
  HdEnc.standard.clear = 0x01 ∧ HdEnc.standard.home = 0x02

/-- `setCursor` sends the DDRAM address of the column in the row, or in the last row where the row is past it, and
completes in every ready state (42_commands.md R166; the wrap is the spec's decision D21). -/
def Obligations.SetCursorSendsTheAddress : Prop :=
  ∀ (col row : Byte) (s : State), s.isReady →
    (row.toNat < s.lineCount.read.toNat →
      exec (.setCursor col row) s =
        .next { s with trace := s.trace ++ sendEvents s.cfg (ddramByte s.cfg.hdEnc col row.toNat) .command, ret := none }) ∧
    (s.lineCount.read.toNat ≤ row.toNat →
      exec (.setCursor col row) s =
        .next { s with
          trace := s.trace ++ sendEvents s.cfg (ddramByte s.cfg.hdEnc col (s.lineCount.read.toNat - 1)) .command
          ret := none })

/-- The display-control group (10_state.md R29): each of the six operations completes in every ready state, writes its one
bit and re-sends the byte built from all three; `begin` writes all three and sends their byte; no other operation changes
the group; and the byte is built from all three, each of which can be read off it wherever HD_ENC gives the three places
of their own. (An example in 30_encoding.md R94 gives another byte for `noCursor`; log 17.) -/
def Obligations.DisplayControlGroup : Prop :=
  (∀ s : State, s.isReady →
    let result (c : CtlFlags) : Host.Outcome State Fault Refusal :=
      .next { s with ctl := c, trace := s.trace ++ sendEvents s.cfg (encCtl s.cfg.hdEnc c) .command, ret := none }
    exec .display s = result { s.ctl with D := Reg.holding true } ∧
    exec .noDisplay s = result { s.ctl with D := Reg.holding false } ∧
    exec .cursor s = result { s.ctl with C := Reg.holding true } ∧
    exec .noCursor s = result { s.ctl with C := Reg.holding false } ∧
    exec .blink s = result { s.ctl with B := Reg.holding true } ∧
    exec .noBlink s = result { s.ctl with B := Reg.holding false }) ∧
  (∀ (cols rows : Byte) (font : Font) (s t : State), exec (.begin cols rows font) s = .next t → t.fault = none →
    t.ctl = { D := Reg.holding true, C := Reg.holding false, B := Reg.holding false } ∧
    ∃ a z, t.trace = s.trace ++ a ++ sendEvents s.cfg (encCtl s.cfg.hdEnc t.ctl) .command ++ z) ∧
  (∀ (e : HdEnc) (c c' : CtlFlags), ctlBitsApart e → encCtl e c = encCtl e c' →
    c.D.read = c'.D.read ∧ c.C.read = c'.C.read ∧ c.B.read = c'.B.read) ∧
  (∀ (i : Instr) (s t : State),
    i.op ∉ [OpName.begin, .display, .noDisplay, .cursor, .noCursor, .blink, .noBlink] →
    exec i s = .next t → t.ctl = s.ctl)

/-- The entry-mode group (10_state.md R30): each of the four operations completes in every ready state, writes its one bit
and re-sends the byte built from both; `begin` writes both and sends their byte; no other operation changes the group; and
the byte is built from both, each of which can be read off it wherever HD_ENC gives the two places of their own. -/
def Obligations.EntryModeGroup : Prop :=
  (∀ s : State, s.isReady →
    let result (e : EntFlags) : Host.Outcome State Fault Refusal :=
      .next { s with ent := e, trace := s.trace ++ sendEvents s.cfg (encEnt s.cfg.hdEnc e) .command, ret := none }
    exec .leftToRight s = result { s.ent with ID := Reg.holding true } ∧
    exec .rightToLeft s = result { s.ent with ID := Reg.holding false } ∧
    exec .autoscroll s = result { s.ent with SH := Reg.holding true } ∧
    exec .noAutoscroll s = result { s.ent with SH := Reg.holding false }) ∧
  (∀ (cols rows : Byte) (font : Font) (s t : State), exec (.begin cols rows font) s = .next t → t.fault = none →
    t.ent = { ID := Reg.holding true, SH := Reg.holding false } ∧
    ∃ a z, t.trace = s.trace ++ a ++ sendEvents s.cfg (encEnt s.cfg.hdEnc t.ent) .command ++ z) ∧
  (∀ (e : HdEnc) (g g' : EntFlags), entBitsApart e → encEnt e g = encEnt e g' →
    g.ID.read = g'.ID.read ∧ g.SH.read = g'.SH.read) ∧
  (∀ (i : Instr) (s t : State), i.op ∉ [OpName.begin, .leftToRight, .rightToLeft, .autoscroll, .noAutoscroll] →
    exec i s = .next t → t.ent = s.ent)

/-- The scroll operations send their byte, change no register and complete in every ready state (42_commands.md R173,
R174). The bytes are HD_ENC's, whose values in the spec are general knowledge (I1, log 5). -/
def Obligations.ScrollsSendTheirByte : Prop :=
  (∀ s : State, s.isReady →
    exec .scrollDisplayLeft s =
      .next { s with trace := s.trace ++ sendEvents s.cfg (shiftLeftByte s.cfg.hdEnc) .command, ret := none } ∧
    exec .scrollDisplayRight s =
      .next { s with trace := s.trace ++ sendEvents s.cfg (shiftRightByte s.cfg.hdEnc) .command, ret := none }) ∧
  shiftLeftByte HdEnc.standard = 0x18 ∧ shiftRightByte HdEnc.standard = 0x1C

/-- `createChar` sends the CGRAM address of the slot and then the eight rows as data, in glyph order, and completes in
every ready state (42_commands.md R179; the address byte's opcode is HD_ENC's, I1). -/
def Obligations.CreateCharSendsSlotAndRows : Prop :=
  ∀ (location : Byte) (g : Glyph) (s : State), s.isReady →
    exec (.createChar location g) s =
      .next { s with
        trace := s.trace ++ sendEvents s.cfg (cgramByte s.cfg.hdEnc location) .command ++
          sendEvents s.cfg g.row0 .data ++ sendEvents s.cfg g.row1 .data ++
          sendEvents s.cfg g.row2 .data ++ sendEvents s.cfg g.row3 .data ++
          sendEvents s.cfg g.row4 .data ++ sendEvents s.cfg g.row5 .data ++
          sendEvents s.cfg g.row6 .data ++ sendEvents s.cfg g.row7 .data
        ret := none }

/-- Every operation but `begin`, in every ready state, answers a next state whose trace has grown by exactly the events
of its bus words, in order, and its added delay: the expansions of 30_encoding.md R89. -/
def Obligations.OperationEmitsItsWords : Prop :=
  ∀ (i : Instr) (s : State), i.op ≠ .begin → s.isReady →
    ∃ t, exec i s = .next t ∧
      t.trace = s.trace ++ wordEvents s.cfg (opWords i s) ++ opTail i s.cfg.timing

/-! ## Transmission -/

/-- The splitter (40_transmission.md R115): one 8-bit transmission with BW = 8, else the high nibble's and then the low
nibble's, both under the byte's mode; only the trace is written. -/
def Obligations.SendSplitsTheByte : Prop :=
  ∀ (v : Byte) (m : Mode) (s : State), s.fault = none →
    send v m s =
      { s with
        trace := s.trace ++
          (if s.cfg.bw = 8 then txEvents s.cfg v m 8
           else txEvents s.cfg (v >>> 4) m 4 ++ txEvents s.cfg (v &&& 0x0F) m 4) }

/-- The Direct transmission, event by event (40_transmission.md R102, R103, R104; the order of the data writes and the
absence of a setup delay are the spec's decisions D7, D8). -/
def Obligations.DirectTransmission : Prop :=
  ∀ (c : DirectWiring) (v : Byte) (m : Mode) (w : Nat) (s : State),
    s.cfg.wiring = .direct c → w = 4 ∨ w = 8 → w ≤ c.data.length →
    transmit v m w s =
      { s with
        trace := s.trace ++
          [Event.write c.rs (if m = .data then .high else .low)] ++
          c.rw.toList.map (fun p => Event.write p .low) ++
          (c.data.take w).zipIdx.map (fun x => Event.write x.1 (if v.getLsbD x.2 then .high else .low)) ++
          [.write c.en .low, .write c.en .high, .delay s.cfg.timing.tEnHigh, .write c.en .low,
            .delay s.cfg.timing.tSettle] }

/-- The three shapes of a Shift-Register transmission, event by event (40_transmission.md R105 to R108; the enable hold
and the absence of a delay between the shifts are the spec's decisions D9, D14). -/
def Obligations.ShiftRegisterTransmission : Prop :=
  ∀ (c : ShiftRegWiring) (v : Byte) (m : Mode) (w : Nat) (s : State),
    s.cfg.wiring = .shiftReg c → w = 4 ∨ w = 8 →
    let word (e : Bool) : Event := .shift c.sdata c.sclk (srWord c s.cfg.srWordBits v m w e)
    let after (evs : List Event) : State := { s with trace := s.trace ++ evs }
    (∀ p l, c.enPin = some p → c.latch = some l →
      transmit v m w s = after
        [word true, .write l .low, .write l .high, .write p .high, .delay s.cfg.timing.tEnHigh, .write p .low,
          .delay s.cfg.timing.tSettle]) ∧
    (∀ p, c.enPin = some p → c.latch = none →
      transmit v m w s = after
        [word true, .write p .high, .delay s.cfg.timing.tEnHigh, .write p .low, .delay s.cfg.timing.tSettle]) ∧
    (c.enPin = none → c.latch = none →
      transmit v m w s = after [word true, word false, .delay s.cfg.timing.tSettle])

/-- The Callback transmission calls the callback with value, mode and width and waits T_SETTLE; no register changes and
no fault is raised; in 4-bit mode the value is always below 16, in `begin` too (40_transmission.md R109). -/
def Obligations.CallbackTransmission : Prop :=
  ∀ (c : CallbackWiring) (v : Byte) (m : Mode) (w : Nat) (s : State),
    s.cfg.wiring = .callback c →
    (w = 4 ∨ w = 8 →
      transmit v m w s = { s with trace := s.trace ++ [.call v m w, .delay s.cfg.timing.tSettle] }) ∧
    (c.bw = 4 → ∀ (x fnByte : Byte) (m' : Mode) (w' : Nat),
      Event.call x m' w' ∈ sendEvents s.cfg v m ∨ Event.call x m' w' ∈ beginEvents s.cfg fnByte → x.toNat < 16)

/-- A pin-driven transmission depends on the low `w` bits of the value alone (40_transmission.md R102, R105,
95_test_vectors.md T2). -/
def Obligations.UpperBitsAreIgnored : Prop :=
  ∀ (cfg : Config) (v v' : Byte) (m : Mode) (w : Nat), drivesPins cfg = true →
    (∀ i, i < w → v.getLsbD i = v'.getLsbD i) → txEvents cfg v m w = txEvents cfg v' m w

/-- The number of events of a transmission, by variant (40_transmission.md R113), and its last event (R112). -/
def Obligations.TransmissionCountsAndEnd : Prop :=
  ∀ (cfg : Config) (v : Byte) (m : Mode), cfg.wf →
    (txEvents cfg v m cfg.bw).length =
      (match cfg.wiring with
        | .direct c => 1 + (if c.rw.isSome then 1 else 0) + cfg.bw + 5
        | .shiftReg c => if c.latch.isSome then 7 else if c.enPin.isSome then 5 else 3
        | .callback _ => 2) ∧
    (txEvents cfg v m cfg.bw).getLast? = some (.delay cfg.timing.tSettle)

/-- With a latch pin, each transmission drives the latch low and then high exactly once, right after its shift and before
the enable handling; a byte in 4-bit mode makes two such pulses (40_transmission.md R106). -/
def Obligations.LatchPulsesOncePerTransmission : Prop :=
  ∀ (cfg : Config) (c : ShiftRegWiring) (l : Pin) (v : Byte) (m : Mode), cfg.wf → cfg.wiring = .shiftReg c →
    c.latch = some l →
    (∃ (word : Nat) (rest : List Event),
      txEvents cfg v m cfg.bw = [.shift c.sdata c.sclk word, .write l .low, .write l .high] ++ rest ∧
      (∀ x, Event.write l x ∉ rest) ∧ (∀ a b n, Event.shift a b n ∉ rest)) ∧
    (cfg.bw = 4 → (sendEvents cfg v m).count (.write l .low) = 2 ∧ (sendEvents cfg v m).count (.write l .high) = 2)

/-- `begin` makes every pin of the variant an output, each once, in the order of its roles, and drives only a pin-driven
enable line, low (41_initialization.md R142; time and order are the spec's decisions D5, D6, D13). -/
def Obligations.InitPinsCoverTheWiring : Prop :=
  ∀ cfg : Config, cfg.wf →
    (initPinsEvents cfg).filterMap (fun e => match e with | .pinMode p => some p | _ => none) = cfg.wiring.pins ∧
    (initPinsEvents cfg).filter (fun e => match e with | .pinMode _ => false | _ => true) =
      (match cfg.wiring with
        | .direct c => [.write c.en .low]
        | .shiftReg c => c.enPin.toList.map (fun p => Event.write p .low)
        | .callback _ => [])

/-- THE CONTROLLER HEARS WHAT THE OPERATION SAYS. For a well-formed pin-driven wiring and any operation but `begin`: the
values on the register-select and data lines at the enable pulses the operation makes are exactly its bus words, split
high nibble first in 4-bit mode, bit `i` on data line `i` (20_memory.md R65, R66, 40_transmission.md R111, R112, R117). -/
def Obligations.ControllerHearsTheWords : Prop :=
  ∀ (i : Instr) (s t : State), i.op ≠ .begin → s.isReady → s.cfg.wf → drivesPins s.cfg = true → s.enableIdle →
    exec i s = .next t →
    t.heard = s.heard ++ wordsHeard s.cfg.bw (opWords i s) ∧ t.enableIdle

/-- The same for `begin` from a fresh block with an empty trace: four raw nibbles and four bytes in 4-bit mode, seven
bytes in 8-bit mode (41_initialization.md R144 to R149, R152; the nibbles' mode is the spec's decision D4). The bytes are
HD_ENC's; with the spec's values, which are general knowledge (I1, log 5), the last three are 0x0C, 0x01 and 0x06. -/
def Obligations.ControllerHearsBegin : Prop :=
  ∀ (cols rows : Byte) (font : Font) (s t : State), s.isFresh → s.cfg.wf → drivesPins s.cfg = true → s.trace = [] →
    1 ≤ rows.toNat → rows.toNat ≤ 4 → exec (.begin cols rows font) s = .next t →
    let enc : HdEnc := s.cfg.hdEnc
    let setup : List BusWord := [⟨.command, encCtl enc t.ctl⟩, ⟨.command, enc.clear⟩, ⟨.command, encEnt enc t.ent⟩]
    let fnWord : BusWord := ⟨.command, encFn enc t.fn⟩
    (enc = HdEnc.standard → setup.map (fun w => w.byte) = [0x0C, 0x01, 0x06]) ∧
    (s.cfg.bw = 4 → t.heard =
      [heardAs .command 0x3 4, heardAs .command 0x3 4, heardAs .command 0x3 4, heardAs .command 0x2 4] ++
        wordsHeard 4 (fnWord :: setup)) ∧
    (s.cfg.bw = 8 → t.heard = wordsHeard 8 (fnWord :: fnWord :: fnWord :: fnWord :: setup)) ∧
    t.enableIdle

/-- The minimum blocking time of every operation (70_reset_and_hazards.md R252), with `P` the time of a transmission and
`8 / BW` transmissions a byte. -/
def Obligations.BlockingTimes : Prop :=
  (∀ (i : Instr) (s t : State), i.op ≠ .begin → s.isReady → s.cfg.wf → exec i s = .next t →
    blockingTime t.trace = blockingTime s.trace +
      (if i.op = .createChar then 9 else 1) * (8 / s.cfg.bw) * transmissionTime s.cfg +
      (if i.op = .clear ∨ i.op = .home then s.cfg.timing.tClear else 0)) ∧
  (∀ (cols rows : Byte) (font : Font) (s t : State), s.isFresh → s.cfg.wf → 1 ≤ rows.toNat → rows.toNat ≤ 4 →
    exec (.begin cols rows font) s = .next t →
    blockingTime t.trace = blockingTime s.trace +
      (if s.cfg.bw = 4 then
        s.cfg.timing.tPowerOn + 2 * s.cfg.timing.tInitLong + s.cfg.timing.tInitShort + s.cfg.timing.tClear +
          12 * transmissionTime s.cfg
      else
        s.cfg.timing.tPowerOn + s.cfg.timing.tInitLong + s.cfg.timing.tInitShort + s.cfg.timing.tClear +
          7 * transmissionTime s.cfg))

/-! ## Frames and whole-machine rules -/

/-- What each operation leaves unchanged whenever it answers a next state, a raised fault included: the parameters and the
host's queue always; `fn.DL` always; all registers but the operation's own. Of a group with one bit written, the other
bits. (10_state.md R20, R28 to R33, R39.) -/
def Obligations.FrameOfEveryOperation : Prop :=
  ∀ (i : Instr) (s t : State), exec i s = .next t →
    t.cfg = s.cfg ∧ t.pending = s.pending ∧ t.fn.DL = s.fn.DL ∧
    (i.op ≠ .begin →
      t.phase = s.phase ∧ t.fn = s.fn ∧ t.lineCount = s.lineCount ∧ t.currentLine = s.currentLine ∧
        t.numCols = s.numCols) ∧
    (i.op = .display ∨ i.op = .noDisplay → t.ctl.C = s.ctl.C ∧ t.ctl.B = s.ctl.B ∧ t.ent = s.ent) ∧
    (i.op = .cursor ∨ i.op = .noCursor → t.ctl.D = s.ctl.D ∧ t.ctl.B = s.ctl.B ∧ t.ent = s.ent) ∧
    (i.op = .blink ∨ i.op = .noBlink → t.ctl.D = s.ctl.D ∧ t.ctl.C = s.ctl.C ∧ t.ent = s.ent) ∧
    (i.op = .leftToRight ∨ i.op = .rightToLeft → t.ent.SH = s.ent.SH ∧ t.ctl = s.ctl) ∧
    (i.op = .autoscroll ∨ i.op = .noAutoscroll → t.ent.ID = s.ent.ID ∧ t.ctl = s.ctl) ∧
    (i.op ∈ [OpName.clear, .home, .setCursor, .scrollDisplayLeft, .scrollDisplayRight, .createChar, .write, .command] →
      t.ctl = s.ctl ∧ t.ent = s.ent) ∧
    (t.fault ≠ none → t = { s with fault := t.fault })

/-- The trace is empty at construction, operations only append to it, and nothing in the block reads it: from a state with
any other trace an operation appends the same events and does the same otherwise (10_state.md R35). -/
def Obligations.TraceIsAppendOnlyAndUnread : Prop :=
  (∀ cfg : Config, (State.constructed cfg).trace = []) ∧
  (∀ (i : Instr) (s t : State), exec i s = .next t →
    ∃ evs, t.trace = s.trace ++ evs ∧
      ∀ other : List Event, exec i { s with trace := other } = .next { t with trace := other ++ evs }) ∧
  (∀ (i : Instr) (s : State) (f : Fault) (other : List Event), exec i s = .fault f →
    exec i { s with trace := other } = .fault f)

/-- `begin` sets `numCols` to its operand, and nothing reads it: with any other value in it every operation does the same
apart from `numCols` itself (10_state.md R33). -/
def Obligations.NumColsIsSetAndNeverRead : Prop :=
  (∀ (cols rows : Byte) (font : Font) (s t : State), exec (.begin cols rows font) s = .next t → t.fault = none →
    t.numCols = Reg.holding cols) ∧
  (∀ (i : Instr) (s : State) (x y : Reg Byte),
    mapNext (fun t => { t with numCols := y }) (exec i { s with numCols := x }) =
      mapNext (fun t => { t with numCols := y }) (exec i s))

/-- `lineCount` is read by `setCursor` alone and `fn` by none but `begin`; `currentLine` and the last return value are
read by none: with other values there, an operation does the same apart from that field (10_state.md R28, R31, R32;
the return value is the model's field, log 7). -/
def Obligations.WhichOperationsReadWhichRegisters : Prop :=
  (∀ (i : Instr) (s : State) (x y : Reg Byte), i.op ≠ .setCursor →
    mapNext (fun t => { t with lineCount := y }) (exec i { s with lineCount := x }) =
      mapNext (fun t => { t with lineCount := y }) (exec i s)) ∧
  (∀ (i : Instr) (s : State) (f : FnFlags), i.op ≠ .begin →
    exec i { s with fn := f } = mapNext (fun t => { t with fn := f }) (exec i s)) ∧
  (∀ (i : Instr) (s : State) (x y : Reg Byte),
    mapNext (fun t => { t with currentLine := y }) (exec i { s with currentLine := x }) =
      mapNext (fun t => { t with currentLine := y }) (exec i s)) ∧
  (∀ (i : Instr) (s : State) (x y : Option Nat),
    mapNext (fun t => { t with ret := y }) (exec i { s with ret := x }) =
      mapNext (fun t => { t with ret := y }) (exec i s))

/-- Every operation that changes a field of a flag group sends that group's instruction byte, built from the new fields,
in the same operation (10_state.md R43). -/
def Obligations.ChangedGroupIsRetransmitted : Prop :=
  ∀ (i : Instr) (s t : State), exec i s = .next t →
    let sent (b : Byte) : Prop := ∃ a z, t.trace = s.trace ++ a ++ sendEvents s.cfg b .command ++ z
    (t.fn ≠ s.fn → sent (encFn s.cfg.hdEnc t.fn)) ∧ (t.ctl ≠ s.ctl → sent (encCtl s.cfg.hdEnc t.ctl)) ∧
      (t.ent ≠ s.ent → sent (encEnt s.cfg.hdEnc t.ent))

/-- The phase (10_state.md R26): `PowerUnknown` after construction; `Ready` when `begin` completes; no operation sets it
back, and none but `begin` changes it; the states inside `begin` stand in the source's order, `ForcingEightBit` only for a
4-bit target (what `begin` emits in each is `BeginPassesTheSourcesStates`). -/
def Obligations.PhaseGoesFromPowerUnknownToReady : Prop :=
  (∀ cfg : Config, (State.constructed cfg).phase = .powerUnknown) ∧
  (∀ (cols rows : Byte) (font : Font) (s t : State), exec (.begin cols rows font) s = .next t → t.fault = none →
    t.phase = .ready) ∧
  (∀ (i : Instr) (s t : State), exec i s = .next t → s.phase = .ready → t.phase = .ready) ∧
  (∀ (i : Instr) (s t : State), exec i s = .next t → i.op ≠ .begin → t.phase = s.phase) ∧
  (∀ (cfg : Config) (b : Byte), (beginStages cfg b).map Prod.fst =
    if cfg.bw = 4 then
      [.powerUnknown, .forcingEightBit, .functionSetCommitted, .displayOn, .cleared, .entryModeSet, .ready]
    else [.powerUnknown, .functionSetCommitted, .displayOn, .cleared, .entryModeSet, .ready])

/-- `begin` emits the events of the source's states, stage after stage, the delay after a step in the stage of that step
(10_state.md R37, 41_initialization.md R151, which places the cuts). What each stage emits rests on the spec's decisions
D4, D5, D6, D16 and D38 (log 15); the bytes are HD_ENC's (I1, log 5). -/
def Obligations.BeginPassesTheSourcesStates : Prop :=
  ∀ (cols rows : Byte) (font : Font) (s t : State), exec (.begin cols rows font) s = .next t → t.fault = none →
    t.trace = s.trace ++ (beginStages s.cfg (encFn s.cfg.hdEnc t.fn)).flatMap Prod.snd ∧
    (beginStages s.cfg (encFn s.cfg.hdEnc t.fn)).map Prod.fst =
      if s.cfg.bw = 4 then
        [.powerUnknown, .forcingEightBit, .functionSetCommitted, .displayOn, .cleared, .entryModeSet, .ready]
      else [.powerUnknown, .functionSetCommitted, .displayOn, .cleared, .entryModeSet, .ready]

/-- HD_ENC is a parameter of the block (00_scope.md R7) on which nothing depends but byte values: under any other table an
operation has the same outcome, the same registers and, event for event, the same calls but for the values the data lines
carry: the same pins, delays, modes and widths, the same levels of register-select, read/write, enable and latch, and the
same bits of a shift word outside the data positions. `write` and `command` emit the very same events
(93_implementation_defined.md I1, "If wrong"). -/
def Obligations.HdEncGivesByteValuesOnly : Prop :=
  ∀ (i : Instr) (s : State) (e : HdEnc),
    (∀ t, exec i s = .next t → ∃ evs,
      exec i (s.withHdEnc e) = .next { t.withHdEnc e with trace := s.trace ++ evs } ∧
      (s.trace ++ evs).map (Event.shape s.cfg.wiring) = t.trace.map (Event.shape s.cfg.wiring)) ∧
    (i.op = .write ∨ i.op = .command →
      exec i (s.withHdEnc e) = mapNext (fun t => t.withHdEnc e) (exec i s)) ∧
    (∀ f, exec i s = .fault f → exec i (s.withHdEnc e) = .fault f)

/-! ## Invariants every step keeps -/

/-- The register invariant of 10_state.md R42 (with R28 and R41 for the rest of a block's life) is kept by every step
from every state that has it. The bound on `lineCount` rests on the spec's decision D19, the value of `currentLine` on
D23. -/
def Obligations.RegisterInvariantIsKept : Prop :=
  ∀ s t : State, s.registersOk → step s = .next t → t.registersOk

/-- Every constructed block, the reset state among them, has the register invariant. -/
def Obligations.ConstructedBlocksMeetTheRegisterInvariant : Prop :=
  (∀ cfg : Config, (State.constructed cfg).registersOk) ∧ State.reset.registersOk

/-- Under a well-formed configuration the block only ever emits events it may: its own pins, words of SR_WORD_BITS bits,
delays of TIMING, calls of its width (20_memory.md R63, R64, R70, 60_exceptions.md R228): kept by every step. -/
def Obligations.TraceInvariantIsKept : Prop :=
  ∀ s t : State, s.cfg.wf → s.traceOk → step s = .next t → t.traceOk

/-- The fault register only ever holds a code an operation can raise in the block's phase, and never BAD_WIDTH
(60_exceptions.md R222, R225; the spec's decision D24): kept by every step. -/
def Obligations.FaultInvariantIsKept : Prop :=
  ∀ s t : State, s.faultOk → step s = .next t → t.faultOk

/-- Between operations enable is not high (40_transmission.md R103, R107, R108, R111): kept by every step under a
well-formed configuration. -/
def Obligations.EnableInvariantIsKept : Prop :=
  ∀ s t : State, s.cfg.wf → s.enableIdle → step s = .next t → t.enableIdle

/-- Every constructed block with a well-formed configuration meets the trace, fault and enable invariants. -/
def Obligations.ConstructedBlocksMeetTheOtherInvariants : Prop :=
  (∀ cfg : Config, (State.constructed cfg).traceOk ∧ (State.constructed cfg).faultOk ∧
    (State.constructed cfg).enableIdle) ∧
  Config.dir4.wf ∧ State.reset.traceOk ∧ State.reset.faultOk ∧ State.reset.enableIdle

/-! ## Laws over operations (42_commands.md R180) -/

/-- Two `display()` calls leave the same `ctl` and send the same events (42_commands.md R180 (a)). -/
def Obligations.DisplayIsIdempotent : Prop :=
  ∀ s : State, s.isReady → ∃ t u evs, exec .display s = .next t ∧ exec .display t = .next u ∧
    u.ctl = t.ctl ∧ t.trace = s.trace ++ evs ∧ u.trace = t.trace ++ evs

/-- Each set/clear pair restores its group exactly when the bit it sets was clear (and written) before it (42_commands.md
R180 (b), the spec's correction C3 of the source's property). -/
def Obligations.SetClearPairsRestoreExactlyFromClear : Prop :=
  ∀ s : State, s.isReady →
    (∀ t u, exec .display s = .next t → exec .noDisplay t = .next u → (u.ctl = s.ctl ↔ s.ctl.D = Reg.holding false)) ∧
    (∀ t u, exec .cursor s = .next t → exec .noCursor t = .next u → (u.ctl = s.ctl ↔ s.ctl.C = Reg.holding false)) ∧
    (∀ t u, exec .blink s = .next t → exec .noBlink t = .next u → (u.ctl = s.ctl ↔ s.ctl.B = Reg.holding false)) ∧
    (∀ t u, exec .leftToRight s = .next t → exec .rightToLeft t = .next u →
      (u.ent = s.ent ↔ s.ent.ID = Reg.holding false)) ∧
    (∀ t u, exec .autoscroll s = .next t → exec .noAutoscroll t = .next u →
      (u.ent = s.ent ↔ s.ent.SH = Reg.holding false))

/-- A row past the last one acts as the last one, and a location acts as its low three bits (42_commands.md R180 (c),
(d)). -/
def Obligations.ClampAndMask : Prop :=
  (∀ (col row : Byte) (s : State), s.lineCount.read.toNat ≤ row.toNat →
    exec (.setCursor col row) s = exec (.setCursor col (s.lineCount.read - 1)) s) ∧
  (∀ (location : Byte) (g : Glyph) (s : State),
    exec (.createChar location g) s = exec (.createChar (location &&& 0x07) g) s)
end

