-- ==== Sys2Proof/Laws/PerInstr.lean ====
section
/-! SUPPORT. Per-instruction laws about the operations as syntax: the word a request carries fits the operation's row of
the opcode table (30_encoding.md R94). -/

namespace Sys2Proof.Laws.TableWord

/-- The bus word of an operation's request has the fixed bits of its table row. -/
def Statement (i : Instr) : Prop := i.op.tableRow.fits i.rowWord = true

/-- The function-set word of a request, whatever its two operand fields. -/
theorem begin_word : ∀ n f : Bool,
    OpName.begin.tableRow.fits (bus9 false (HdEnc.standard.func ||| flagAt n HdEnc.standard.bitN ||| flagAt f HdEnc.standard.bitF)) = true := by
  decide

theorem begin (cols rows : Byte) (font : Font) : Statement (.begin cols rows font) := begin_word _ _

theorem clear : Statement .clear := rfl
theorem home : Statement .home := rfl
theorem setCursor (col row : Byte) : Statement (.setCursor col row) :=
  (by decide : OpName.setCursor.tableRow.fits OpName.setCursor.tableRow.pat = true)
theorem noDisplay : Statement .noDisplay := rfl
theorem display : Statement .display := rfl
theorem noCursor : Statement .noCursor := rfl
theorem cursor : Statement .cursor := rfl
theorem noBlink : Statement .noBlink := rfl
theorem blink : Statement .blink := rfl
theorem scrollDisplayLeft : Statement .scrollDisplayLeft := rfl
theorem scrollDisplayRight : Statement .scrollDisplayRight := rfl
theorem leftToRight : Statement .leftToRight := rfl
theorem rightToLeft : Statement .rightToLeft := rfl
theorem autoscroll : Statement .autoscroll := rfl
theorem noAutoscroll : Statement .noAutoscroll := rfl

theorem createChar_word : ∀ l : Byte,
    OpName.createChar.tableRow.fits (bus9 false (HdEnc.standard.cgaddr ||| ((l &&& 0x07) <<< 3))) = true := by
  decide +kernel

theorem createChar (location : Byte) (glyph : Glyph) : Statement (.createChar location glyph) := createChar_word location

theorem write_word : ∀ v : Byte, OpName.write.tableRow.fits (bus9 true v) = true := by decide +kernel

theorem write (value : Byte) : Statement (.write value) := write_word value

theorem command_word : ∀ v : Byte, OpName.command.tableRow.fits (bus9 false v) = true := by decide +kernel

theorem command (value : Byte) : Statement (.command value) := command_word value

end Sys2Proof.Laws.TableWord
end

