-- ==== Sys2Proof/Laws/Decode.lean ====
section
/-! SUPPORT. What decoding a request filed under a row does. -/

namespace Sys2Proof

theorem OpName.ofNumber_number (op : OpName) : OpName.ofNumber op.number = some op := by cases op <;> rfl

theorem OpName.number_bounds (op : OpName) : 1 ≤ op.number ∧ op.number ≤ 19 := by cases op <;> decide

/-- A 9-bit word is its bit 8 and its low byte. -/
theorem bus9_parts : ∀ w : BitVec 9, bus9 (w.getLsbD 8) (w.setWidth 8) = w := by decide +kernel

/-- The second byte of a request holds RS in bit 0 and the row's number above it. -/
theorem secondByte_parts (n : Nat) (hn : n < 128) (b : Bool) :
    (BitVec.ofNat 8 (2 * n + b.toNat)).getLsbD 0 = b ∧ (BitVec.ofNat 8 (2 * n + b.toNat)).toNat / 2 = n := by
  cases b <;> simp [BitVec.getLsbD, BitVec.toNat_ofNat, Nat.testBit_zero] <;> omega

/-- A request filed under a row whose word fits the row is read by that row's operands. -/
theorem decode_filed (op : OpName) (w : BitVec 9) (rest : List Byte) (h : op.tableRow.fits w = true) :
    decode (w.setWidth 8 :: BitVec.ofNat 8 (2 * op.number + (w.getLsbD 8).toNat) :: rest) =
      decodeOperands op (w.setWidth 8) rest := by
  obtain ⟨h1, h2⟩ := secondByte_parts op.number (by have := op.number_bounds; omega) (w.getLsbD 8)
  have h3 : op.number ≠ 0 := by have := op.number_bounds; omega
  simp only [decode, h1, h2, bus9_parts, OpName.ofNumber_number, h, h3, if_true, if_false]

end Sys2Proof
end

