-- ==== Sys2Proof/Laws/WellFormed.lean ====
section
/-! SUPPORT. Well-formedness, variant by variant, as the conditions of 10_state.md R21 to R23. -/

namespace Sys2Proof

@[simp] theorem CfgReason.unless_eq_nil (r : CfgReason) (p : Prop) [Decidable p] : r.unless p = [] ↔ p := by
  by_cases h : p <;> simp [CfgReason.unless, h]

@[simp] theorem CfgReason.mem_unless (x r : CfgReason) (p : Prop) [Decidable p] : x ∈ r.unless p ↔ ¬ p ∧ x = r := by
  by_cases h : p <;> simp [CfgReason.unless, h]

theorem Wiring.wf_direct (c : DirectWiring) (n : Nat) :
    (Wiring.direct c).wf n ↔
      (c.bw = 4 ∨ c.bw = 8) ∧ c.data.length = c.bw ∧ (Wiring.direct c).pins.Nodup := by
  simp only [Wiring.wf, Wiring.problems, List.append_eq_nil_iff, CfgReason.unless_eq_nil]
  rfl

theorem Wiring.wf_shiftReg (c : ShiftRegWiring) (n : Nat) :
    (Wiring.shiftReg c).wf n ↔
      (c.bw = 4 ∨ c.bw = 8) ∧ c.dataPos.length = c.bw ∧ (Wiring.shiftReg c).pins.Nodup ∧
        c.enPin.isSome = !c.enPos.isSome ∧ (c.latch.isSome = true → c.enPin.isSome = true) ∧
        (∀ p ∈ c.positions, p < n) ∧ c.positions.Nodup := by
  simp only [Wiring.wf, Wiring.problems, List.append_eq_nil_iff, CfgReason.unless_eq_nil, and_assoc]
  rfl

theorem Wiring.wf_callback (c : CallbackWiring) (n : Nat) :
    (Wiring.callback c).wf n ↔ (c.bw = 4 ∨ c.bw = 8) := by
  simp only [Wiring.wf, Wiring.problems, List.append_eq_nil_iff, CfgReason.unless_eq_nil, and_true]
  rfl

/-- Every well-formed wiring has a bit-width of 4 or 8. -/
theorem Wiring.wf_bw {w : Wiring} {n : Nat} (h : w.wf n) : w.bw = 4 ∨ w.bw = 8 := by
  simp only [Wiring.wf, Wiring.problems, List.append_eq_nil_iff, CfgReason.unless_eq_nil] at h
  exact h.1

end Sys2Proof
end

