-- ==== Sys2Proof/Laws/Operands.lean ====
section
/-! SUPPORT. Bits of a shift word, what a list of data-pin writes leaves on a pin, and what a well-formed wiring says of
its positions. -/

namespace Sys2Proof.Machine

theorem bit_shiftLeft (b : Bool) (p q : Nat) : (b.toNat <<< p).testBit q = (b && decide (q = p)) := by
  rw [Nat.testBit_shiftLeft]
  rcases Nat.lt_trichotomy q p with h | rfl | h
  · simp [Nat.not_le.mpr h, Nat.ne_of_lt h]
  · cases b <;> simp
  · obtain ⟨m, hm⟩ := Nat.exists_eq_succ_of_ne_zero (Nat.sub_ne_zero_of_lt h)
    cases b <;> simp [hm, Nat.testBit_succ, Nat.ne_of_gt h]

/-- A data bit reaches the positions it is laid on, and no other. -/
theorem dataBits_testBit (v : Byte) (i : Nat) (l : List Pos) (q : Nat) :
    (dataBits v i l).testBit q = true ↔ ∃ k, l[k]? = some q ∧ v.getLsbD (i + k) = true := by
  induction l generalizing i with
  | nil => simp [dataBits]
  | cons p ps ih =>
    simp only [dataBits, Nat.testBit_or, Bool.or_eq_true, ih, bit_shiftLeft, Bool.and_eq_true, decide_eq_true_eq]
    constructor
    · rintro (⟨h1, rfl⟩ | ⟨k, h1, h2⟩)
      · exact ⟨0, rfl, h1⟩
      · exact ⟨k + 1, by simpa using h1, by rw [← h2]; congr 1; omega⟩
    · rintro ⟨_ | k, h1, h2⟩
      · simp only [List.getElem?_cons_zero, Option.some.injEq] at h1
        exact .inl ⟨h2, h1.symm⟩
      · exact .inr ⟨k, by simpa using h1, by rw [← h2]; congr 1; omega⟩

theorem srWord_lt (c : ShiftRegWiring) (n : Nat) (v : Byte) (m : Mode) (w : Nat) (e : Bool) :
    srWord c n v m w e < 2 ^ n := Nat.mod_lt _ (Nat.two_pow_pos n)

/-- Which bits of a shift word are 1, below its width (30_encoding.md R87). -/
theorem srWord_testBit (c : ShiftRegWiring) (n : Nat) (v : Byte) (m : Mode) (w : Nat) (e : Bool) (q : Nat)
    (hq : q < n) :
    (srWord c n v m w e).testBit q = true ↔
      (m = .data ∧ q = c.rsPos) ∨ (e = true ∧ c.enPos = some q) ∨
        (∃ k, k < w ∧ c.dataPos[k]? = some q ∧ v.getLsbD k = true) := by
  unfold srWord
  rw [Nat.testBit_mod_two_pow]
  simp only [hq, decide_true, Bool.true_and, Nat.testBit_or, Bool.or_eq_true, dataBits_testBit, bit_shiftLeft]
  have h1 : (match c.rwPos with | some p => 0 <<< p | none => 0 : Nat).testBit q = true ↔ False := by
    cases c.rwPos <;> simp only [Nat.zero_shiftLeft, Nat.zero_testBit, Bool.false_eq_true]
  have h2 : (match c.enPos with | some p => e.toNat <<< p | none => 0 : Nat).testBit q = true ↔
      (e = true ∧ c.enPos = some q) := by
    cases c.enPos with
    | none => simp only [Nat.zero_testBit]; constructor <;> intro h <;> simp at h
    | some p =>
      simp only [bit_shiftLeft, Bool.and_eq_true, decide_eq_true_eq, Option.some.injEq]
      exact and_congr_right (fun _ => eq_comm)
  simp only [List.getElem?_take, Bool.and_eq_true, decide_eq_true_eq, Nat.zero_add]
  rw [or_assoc, or_assoc]
  refine or_congr Iff.rfl (or_congr h2 ((or_congr h1 Iff.rfl).trans ?_))
  rw [false_or]
  constructor
  · rintro ⟨k, h, h'⟩
    by_cases hk : k < w
    · rw [if_pos hk] at h; exact ⟨k, hk, h, h'⟩
    · rw [if_neg hk] at h; cases h
  · rintro ⟨k, hk, h, h'⟩
    exact ⟨k, by rw [if_pos hk]; exact h, h'⟩

theorem dataWrites_length (v : Byte) (i : Nat) (l : List Pin) : (dataWrites v i l).length = l.length := by
  induction l generalizing i with
  | nil => rfl
  | cons p ps ih => simp [dataWrites, ih]

/-- A data write is a write to one of the data pins. -/
theorem mem_dataWrites {v : Byte} {i : Nat} {l : List Pin} {e : Event} (h : e ∈ dataWrites v i l) :
    ∃ p ∈ l, ∃ x, e = .write p x := by
  induction l generalizing i with
  | nil => simp [dataWrites] at h
  | cons q l ih =>
    rcases List.mem_cons.1 h with rfl | h
    · exact ⟨q, by simp, _, rfl⟩
    · obtain ⟨p, hp, hx⟩ := ih h
      exact ⟨p, List.mem_cons_of_mem _ hp, hx⟩

end Sys2Proof.Machine

namespace Sys2Proof

/-- What 10_state.md R22 (c) says of a well-formed wiring's positions, one by one. -/
structure ShiftRegWiring.PositionsApart (c : ShiftRegWiring) (n : Nat) : Prop where
  rs_lt   : c.rsPos < n
  rs_data : c.rsPos ∉ c.dataPos
  en      : ∀ q, c.enPos = some q → q < n ∧ q ≠ c.rsPos ∧ q ∉ c.dataPos ∧ c.rwPos ≠ some q
  rw      : ∀ q, c.rwPos = some q → q < n ∧ q ≠ c.rsPos ∧ q ∉ c.dataPos
  data_lt : ∀ q ∈ c.dataPos, q < n
  nodup   : c.dataPos.Nodup

theorem ShiftRegWiring.positionsApart {c : ShiftRegWiring} {n : Nat} (h : (Wiring.shiftReg c).wf n) :
    c.PositionsApart n := by
  obtain ⟨-, -, -, -, -, hlt, hnd⟩ := (Wiring.wf_shiftReg c n).1 h
  unfold ShiftRegWiring.positions at hlt hnd
  simp only [List.nodup_cons, List.nodup_append, List.mem_append, List.mem_cons, Option.mem_toList, not_or] at hlt hnd
  obtain ⟨⟨⟨ha, hb⟩, hc⟩, ⟨⟨-, -, hf⟩, hg, hh⟩⟩ := hnd
  refine ⟨hlt _ (.inl rfl), hc, fun q hq => ⟨hlt q (.inr (.inl (.inl hq))), ?_, ?_, ?_⟩,
    fun q hq => ⟨hlt q (.inr (.inl (.inr hq))), ?_, ?_⟩, fun q hq => hlt q (.inr (.inr hq)), hg⟩
  · rintro rfl; exact ha hq
  · exact fun hm => hh q (.inl hq) q hm rfl
  · exact fun hr => hf q hq q hr rfl
  · rintro rfl; exact hb hq
  · exact fun hm => hh q (.inr hq) q hm rfl

end Sys2Proof
end

