-- ==== Sys2Proof/Laws/State.lean ====
section
/-! SUPPORT. One lemma per field per update of State, true by rfl, for simp. -/

namespace Sys2Proof.Machine

@[simp] theorem Reg.read_holding {α : Type} (v : α) : (Reg.holding v).read = v := rfl
@[simp] theorem Reg.written_holding {α : Type} (v : α) : (Reg.holding v).written = true := rfl
@[simp] theorem Reg.read_unwritten {α : Type} (v : α) : (Reg.unwritten v).read = v := rfl
@[simp] theorem Reg.written_unwritten {α : Type} (v : α) : (Reg.unwritten v).written = false := rfl

@[simp] theorem State.setPhase_cfg (s : State) (p : Phase) : (s.setPhase p).cfg = s.cfg := rfl
@[simp] theorem State.setPhase_phase (s : State) (p : Phase) : (s.setPhase p).phase = p := rfl
@[simp] theorem State.setPhase_fault (s : State) (p : Phase) : (s.setPhase p).fault = s.fault := rfl
@[simp] theorem State.setPhase_fn (s : State) (p : Phase) : (s.setPhase p).fn = s.fn := rfl
@[simp] theorem State.setPhase_ctl (s : State) (p : Phase) : (s.setPhase p).ctl = s.ctl := rfl
@[simp] theorem State.setPhase_ent (s : State) (p : Phase) : (s.setPhase p).ent = s.ent := rfl
@[simp] theorem State.setPhase_lineCount (s : State) (p : Phase) : (s.setPhase p).lineCount = s.lineCount := rfl
@[simp] theorem State.setPhase_currentLine (s : State) (p : Phase) : (s.setPhase p).currentLine = s.currentLine := rfl
@[simp] theorem State.setPhase_numCols (s : State) (p : Phase) : (s.setPhase p).numCols = s.numCols := rfl
@[simp] theorem State.setPhase_trace (s : State) (p : Phase) : (s.setPhase p).trace = s.trace := rfl
@[simp] theorem State.setPhase_pending (s : State) (p : Phase) : (s.setPhase p).pending = s.pending := rfl
@[simp] theorem State.setPhase_ret (s : State) (p : Phase) : (s.setPhase p).ret = s.ret := rfl

@[simp] theorem State.setFault_cfg (s : State) (f : Option FaultCode) : (s.setFault f).cfg = s.cfg := rfl
@[simp] theorem State.setFault_phase (s : State) (f : Option FaultCode) : (s.setFault f).phase = s.phase := rfl
@[simp] theorem State.setFault_fault (s : State) (f : Option FaultCode) : (s.setFault f).fault = f := rfl
@[simp] theorem State.setFault_fn (s : State) (f : Option FaultCode) : (s.setFault f).fn = s.fn := rfl
@[simp] theorem State.setFault_ctl (s : State) (f : Option FaultCode) : (s.setFault f).ctl = s.ctl := rfl
@[simp] theorem State.setFault_ent (s : State) (f : Option FaultCode) : (s.setFault f).ent = s.ent := rfl
@[simp] theorem State.setFault_lineCount (s : State) (f : Option FaultCode) : (s.setFault f).lineCount = s.lineCount := rfl
@[simp] theorem State.setFault_currentLine (s : State) (f : Option FaultCode) : (s.setFault f).currentLine = s.currentLine := rfl
@[simp] theorem State.setFault_numCols (s : State) (f : Option FaultCode) : (s.setFault f).numCols = s.numCols := rfl
@[simp] theorem State.setFault_trace (s : State) (f : Option FaultCode) : (s.setFault f).trace = s.trace := rfl
@[simp] theorem State.setFault_pending (s : State) (f : Option FaultCode) : (s.setFault f).pending = s.pending := rfl
@[simp] theorem State.setFault_ret (s : State) (f : Option FaultCode) : (s.setFault f).ret = s.ret := rfl

@[simp] theorem State.setFn_cfg (s : State) (f : FnFlags) : (s.setFn f).cfg = s.cfg := rfl
@[simp] theorem State.setFn_phase (s : State) (f : FnFlags) : (s.setFn f).phase = s.phase := rfl
@[simp] theorem State.setFn_fault (s : State) (f : FnFlags) : (s.setFn f).fault = s.fault := rfl
@[simp] theorem State.setFn_fn (s : State) (f : FnFlags) : (s.setFn f).fn = f := rfl
@[simp] theorem State.setFn_ctl (s : State) (f : FnFlags) : (s.setFn f).ctl = s.ctl := rfl
@[simp] theorem State.setFn_ent (s : State) (f : FnFlags) : (s.setFn f).ent = s.ent := rfl
@[simp] theorem State.setFn_lineCount (s : State) (f : FnFlags) : (s.setFn f).lineCount = s.lineCount := rfl
@[simp] theorem State.setFn_currentLine (s : State) (f : FnFlags) : (s.setFn f).currentLine = s.currentLine := rfl
@[simp] theorem State.setFn_numCols (s : State) (f : FnFlags) : (s.setFn f).numCols = s.numCols := rfl
@[simp] theorem State.setFn_trace (s : State) (f : FnFlags) : (s.setFn f).trace = s.trace := rfl
@[simp] theorem State.setFn_pending (s : State) (f : FnFlags) : (s.setFn f).pending = s.pending := rfl
@[simp] theorem State.setFn_ret (s : State) (f : FnFlags) : (s.setFn f).ret = s.ret := rfl

@[simp] theorem State.setCtl_cfg (s : State) (c : CtlFlags) : (s.setCtl c).cfg = s.cfg := rfl
@[simp] theorem State.setCtl_phase (s : State) (c : CtlFlags) : (s.setCtl c).phase = s.phase := rfl
@[simp] theorem State.setCtl_fault (s : State) (c : CtlFlags) : (s.setCtl c).fault = s.fault := rfl
@[simp] theorem State.setCtl_fn (s : State) (c : CtlFlags) : (s.setCtl c).fn = s.fn := rfl
@[simp] theorem State.setCtl_ctl (s : State) (c : CtlFlags) : (s.setCtl c).ctl = c := rfl
@[simp] theorem State.setCtl_ent (s : State) (c : CtlFlags) : (s.setCtl c).ent = s.ent := rfl
@[simp] theorem State.setCtl_lineCount (s : State) (c : CtlFlags) : (s.setCtl c).lineCount = s.lineCount := rfl
@[simp] theorem State.setCtl_currentLine (s : State) (c : CtlFlags) : (s.setCtl c).currentLine = s.currentLine := rfl
@[simp] theorem State.setCtl_numCols (s : State) (c : CtlFlags) : (s.setCtl c).numCols = s.numCols := rfl
@[simp] theorem State.setCtl_trace (s : State) (c : CtlFlags) : (s.setCtl c).trace = s.trace := rfl
@[simp] theorem State.setCtl_pending (s : State) (c : CtlFlags) : (s.setCtl c).pending = s.pending := rfl
@[simp] theorem State.setCtl_ret (s : State) (c : CtlFlags) : (s.setCtl c).ret = s.ret := rfl

@[simp] theorem State.setEnt_cfg (s : State) (e : EntFlags) : (s.setEnt e).cfg = s.cfg := rfl
@[simp] theorem State.setEnt_phase (s : State) (e : EntFlags) : (s.setEnt e).phase = s.phase := rfl
@[simp] theorem State.setEnt_fault (s : State) (e : EntFlags) : (s.setEnt e).fault = s.fault := rfl
@[simp] theorem State.setEnt_fn (s : State) (e : EntFlags) : (s.setEnt e).fn = s.fn := rfl
@[simp] theorem State.setEnt_ctl (s : State) (e : EntFlags) : (s.setEnt e).ctl = s.ctl := rfl
@[simp] theorem State.setEnt_ent (s : State) (e : EntFlags) : (s.setEnt e).ent = e := rfl
@[simp] theorem State.setEnt_lineCount (s : State) (e : EntFlags) : (s.setEnt e).lineCount = s.lineCount := rfl
@[simp] theorem State.setEnt_currentLine (s : State) (e : EntFlags) : (s.setEnt e).currentLine = s.currentLine := rfl
@[simp] theorem State.setEnt_numCols (s : State) (e : EntFlags) : (s.setEnt e).numCols = s.numCols := rfl
@[simp] theorem State.setEnt_trace (s : State) (e : EntFlags) : (s.setEnt e).trace = s.trace := rfl
@[simp] theorem State.setEnt_pending (s : State) (e : EntFlags) : (s.setEnt e).pending = s.pending := rfl
@[simp] theorem State.setEnt_ret (s : State) (e : EntFlags) : (s.setEnt e).ret = s.ret := rfl

@[simp] theorem State.setLineCount_cfg (s : State) (v : Byte) : (s.setLineCount v).cfg = s.cfg := rfl
@[simp] theorem State.setLineCount_phase (s : State) (v : Byte) : (s.setLineCount v).phase = s.phase := rfl
@[simp] theorem State.setLineCount_fault (s : State) (v : Byte) : (s.setLineCount v).fault = s.fault := rfl
@[simp] theorem State.setLineCount_fn (s : State) (v : Byte) : (s.setLineCount v).fn = s.fn := rfl
@[simp] theorem State.setLineCount_ctl (s : State) (v : Byte) : (s.setLineCount v).ctl = s.ctl := rfl
@[simp] theorem State.setLineCount_ent (s : State) (v : Byte) : (s.setLineCount v).ent = s.ent := rfl
@[simp] theorem State.setLineCount_lineCount (s : State) (v : Byte) : (s.setLineCount v).lineCount = Reg.holding v := rfl
@[simp] theorem State.setLineCount_currentLine (s : State) (v : Byte) : (s.setLineCount v).currentLine = s.currentLine := rfl
@[simp] theorem State.setLineCount_numCols (s : State) (v : Byte) : (s.setLineCount v).numCols = s.numCols := rfl
@[simp] theorem State.setLineCount_trace (s : State) (v : Byte) : (s.setLineCount v).trace = s.trace := rfl
@[simp] theorem State.setLineCount_pending (s : State) (v : Byte) : (s.setLineCount v).pending = s.pending := rfl
@[simp] theorem State.setLineCount_ret (s : State) (v : Byte) : (s.setLineCount v).ret = s.ret := rfl

@[simp] theorem State.setCurrentLine_cfg (s : State) (v : Byte) : (s.setCurrentLine v).cfg = s.cfg := rfl
@[simp] theorem State.setCurrentLine_phase (s : State) (v : Byte) : (s.setCurrentLine v).phase = s.phase := rfl
@[simp] theorem State.setCurrentLine_fault (s : State) (v : Byte) : (s.setCurrentLine v).fault = s.fault := rfl
@[simp] theorem State.setCurrentLine_fn (s : State) (v : Byte) : (s.setCurrentLine v).fn = s.fn := rfl
@[simp] theorem State.setCurrentLine_ctl (s : State) (v : Byte) : (s.setCurrentLine v).ctl = s.ctl := rfl
@[simp] theorem State.setCurrentLine_ent (s : State) (v : Byte) : (s.setCurrentLine v).ent = s.ent := rfl
@[simp] theorem State.setCurrentLine_lineCount (s : State) (v : Byte) : (s.setCurrentLine v).lineCount = s.lineCount := rfl
@[simp] theorem State.setCurrentLine_currentLine (s : State) (v : Byte) : (s.setCurrentLine v).currentLine = Reg.holding v := rfl
@[simp] theorem State.setCurrentLine_numCols (s : State) (v : Byte) : (s.setCurrentLine v).numCols = s.numCols := rfl
@[simp] theorem State.setCurrentLine_trace (s : State) (v : Byte) : (s.setCurrentLine v).trace = s.trace := rfl
@[simp] theorem State.setCurrentLine_pending (s : State) (v : Byte) : (s.setCurrentLine v).pending = s.pending := rfl
@[simp] theorem State.setCurrentLine_ret (s : State) (v : Byte) : (s.setCurrentLine v).ret = s.ret := rfl

@[simp] theorem State.setNumCols_cfg (s : State) (v : Byte) : (s.setNumCols v).cfg = s.cfg := rfl
@[simp] theorem State.setNumCols_phase (s : State) (v : Byte) : (s.setNumCols v).phase = s.phase := rfl
@[simp] theorem State.setNumCols_fault (s : State) (v : Byte) : (s.setNumCols v).fault = s.fault := rfl
@[simp] theorem State.setNumCols_fn (s : State) (v : Byte) : (s.setNumCols v).fn = s.fn := rfl
@[simp] theorem State.setNumCols_ctl (s : State) (v : Byte) : (s.setNumCols v).ctl = s.ctl := rfl
@[simp] theorem State.setNumCols_ent (s : State) (v : Byte) : (s.setNumCols v).ent = s.ent := rfl
@[simp] theorem State.setNumCols_lineCount (s : State) (v : Byte) : (s.setNumCols v).lineCount = s.lineCount := rfl
@[simp] theorem State.setNumCols_currentLine (s : State) (v : Byte) : (s.setNumCols v).currentLine = s.currentLine := rfl
@[simp] theorem State.setNumCols_numCols (s : State) (v : Byte) : (s.setNumCols v).numCols = Reg.holding v := rfl
@[simp] theorem State.setNumCols_trace (s : State) (v : Byte) : (s.setNumCols v).trace = s.trace := rfl
@[simp] theorem State.setNumCols_pending (s : State) (v : Byte) : (s.setNumCols v).pending = s.pending := rfl
@[simp] theorem State.setNumCols_ret (s : State) (v : Byte) : (s.setNumCols v).ret = s.ret := rfl

@[simp] theorem State.setPending_cfg (s : State) (q : List Instr) : (s.setPending q).cfg = s.cfg := rfl
@[simp] theorem State.setPending_phase (s : State) (q : List Instr) : (s.setPending q).phase = s.phase := rfl
@[simp] theorem State.setPending_fault (s : State) (q : List Instr) : (s.setPending q).fault = s.fault := rfl
@[simp] theorem State.setPending_fn (s : State) (q : List Instr) : (s.setPending q).fn = s.fn := rfl
@[simp] theorem State.setPending_ctl (s : State) (q : List Instr) : (s.setPending q).ctl = s.ctl := rfl
@[simp] theorem State.setPending_ent (s : State) (q : List Instr) : (s.setPending q).ent = s.ent := rfl
@[simp] theorem State.setPending_lineCount (s : State) (q : List Instr) : (s.setPending q).lineCount = s.lineCount := rfl
@[simp] theorem State.setPending_currentLine (s : State) (q : List Instr) : (s.setPending q).currentLine = s.currentLine := rfl
@[simp] theorem State.setPending_numCols (s : State) (q : List Instr) : (s.setPending q).numCols = s.numCols := rfl
@[simp] theorem State.setPending_trace (s : State) (q : List Instr) : (s.setPending q).trace = s.trace := rfl
@[simp] theorem State.setPending_pending (s : State) (q : List Instr) : (s.setPending q).pending = q := rfl
@[simp] theorem State.setPending_ret (s : State) (q : List Instr) : (s.setPending q).ret = s.ret := rfl

@[simp] theorem State.setRet_cfg (s : State) (r : Option Nat) : (s.setRet r).cfg = s.cfg := rfl
@[simp] theorem State.setRet_phase (s : State) (r : Option Nat) : (s.setRet r).phase = s.phase := rfl
@[simp] theorem State.setRet_fault (s : State) (r : Option Nat) : (s.setRet r).fault = s.fault := rfl
@[simp] theorem State.setRet_fn (s : State) (r : Option Nat) : (s.setRet r).fn = s.fn := rfl
@[simp] theorem State.setRet_ctl (s : State) (r : Option Nat) : (s.setRet r).ctl = s.ctl := rfl
@[simp] theorem State.setRet_ent (s : State) (r : Option Nat) : (s.setRet r).ent = s.ent := rfl
@[simp] theorem State.setRet_lineCount (s : State) (r : Option Nat) : (s.setRet r).lineCount = s.lineCount := rfl
@[simp] theorem State.setRet_currentLine (s : State) (r : Option Nat) : (s.setRet r).currentLine = s.currentLine := rfl
@[simp] theorem State.setRet_numCols (s : State) (r : Option Nat) : (s.setRet r).numCols = s.numCols := rfl
@[simp] theorem State.setRet_trace (s : State) (r : Option Nat) : (s.setRet r).trace = s.trace := rfl
@[simp] theorem State.setRet_pending (s : State) (r : Option Nat) : (s.setRet r).pending = s.pending := rfl
@[simp] theorem State.setRet_ret (s : State) (r : Option Nat) : (s.setRet r).ret = r := rfl

@[simp] theorem State.emit_cfg (s : State) (evs : List Event) : (s.emit evs).cfg = s.cfg := rfl
@[simp] theorem State.emit_phase (s : State) (evs : List Event) : (s.emit evs).phase = s.phase := rfl
@[simp] theorem State.emit_fault (s : State) (evs : List Event) : (s.emit evs).fault = s.fault := rfl
@[simp] theorem State.emit_fn (s : State) (evs : List Event) : (s.emit evs).fn = s.fn := rfl
@[simp] theorem State.emit_ctl (s : State) (evs : List Event) : (s.emit evs).ctl = s.ctl := rfl
@[simp] theorem State.emit_ent (s : State) (evs : List Event) : (s.emit evs).ent = s.ent := rfl
@[simp] theorem State.emit_lineCount (s : State) (evs : List Event) : (s.emit evs).lineCount = s.lineCount := rfl
@[simp] theorem State.emit_currentLine (s : State) (evs : List Event) : (s.emit evs).currentLine = s.currentLine := rfl
@[simp] theorem State.emit_numCols (s : State) (evs : List Event) : (s.emit evs).numCols = s.numCols := rfl
@[simp] theorem State.emit_trace (s : State) (evs : List Event) : (s.emit evs).trace = s.trace ++ evs := rfl
@[simp] theorem State.emit_pending (s : State) (evs : List Event) : (s.emit evs).pending = s.pending := rfl
@[simp] theorem State.emit_ret (s : State) (evs : List Event) : (s.emit evs).ret = s.ret := rfl

/-! The one-bit writes and `raise` are group writes; simp rewrites them to those. -/

@[simp] theorem State.setN_eq (s : State) (v : Bool) : s.setN v = s.setFn { s.fn with N := Reg.holding v } := rfl
@[simp] theorem State.setF_eq (s : State) (v : Bool) : s.setF v = s.setFn { s.fn with F := Reg.holding v } := rfl
@[simp] theorem State.setD_eq (s : State) (v : Bool) : s.setD v = s.setCtl { s.ctl with D := Reg.holding v } := rfl
@[simp] theorem State.setC_eq (s : State) (v : Bool) : s.setC v = s.setCtl { s.ctl with C := Reg.holding v } := rfl
@[simp] theorem State.setB_eq (s : State) (v : Bool) : s.setB v = s.setCtl { s.ctl with B := Reg.holding v } := rfl
@[simp] theorem State.setID_eq (s : State) (v : Bool) : s.setID v = s.setEnt { s.ent with ID := Reg.holding v } := rfl
@[simp] theorem State.setSH_eq (s : State) (v : Bool) : s.setSH v = s.setEnt { s.ent with SH := Reg.holding v } := rfl
@[simp] theorem raise_eq (f : FaultCode) (s : State) : raise f s = s.setFault (some f) := rfl
@[simp] theorem delay_eq (t : Timing → Nat) (s : State) : delay t s = s.emit [.delay (t s.cfg.timing)] := rfl
@[simp] theorem State.emit_emit (s : State) (a b : List Event) : (s.emit a).emit b = s.emit (a ++ b) := by
  simp [State.emit]
@[simp] theorem State.emit_nil (s : State) : s.emit [] = s := by simp [State.emit]
@[simp] theorem State.setPending_self (s : State) : s.setPending s.pending = s := rfl
@[simp] theorem State.setPending_setPending (s : State) (p q : List Instr) :
    (s.setPending p).setPending q = s.setPending q := rfl

end Sys2Proof.Machine
end

