-- ==== Sys2Proof/Laws/Ops.lean ====
section
/-! SUPPORT. What the shared operations of Machine/Ops.lean do: one lemma each, cited in place of unfolding them. -/

namespace Sys2Proof.Machine

@[simp] theorem perform_nil (s : State) : perform [] s = s := rfl

/-- While no fault is set, `perform` runs its first action and goes on. -/
theorem perform_cons {s : State} (h : s.fault = none) (a : State → State) (rest : List (State → State)) :
    perform (a :: rest) s = perform rest (a s) := by
  simp [perform, h]

/-- A set fault ends an operation: nothing more is done. -/
theorem perform_of_fault {s : State} {code : FaultCode} (h : s.fault = some code) (acts : List (State → State)) :
    perform acts s = s := by
  cases acts <;> simp [perform, h]

/-- The result of an operation no fault ended. -/
theorem complete_eq {s : State} {returns : Option Nat} {acts : List (State → State)}
    (h : (perform acts s).fault = none) : complete returns acts s = .next ((perform acts s).setRet returns) := by
  simp [complete, h]

/-- The checks of 60_exceptions.md R223, all three outcomes. -/
theorem inPhase_of_fault {s : State} {code : FaultCode} (h : s.fault = some code) (p : Phase) (f : FaultCode)
    (op : State → Host.Outcome State Fault Refusal) : inPhase p f op s = .fault (.blockFaulted code) := by
  simp [inPhase, h]

theorem inPhase_of_phase {s : State} (h : s.fault = none) {p : Phase} (hp : s.phase = p) (f : FaultCode)
    (op : State → Host.Outcome State Fault Refusal) : inPhase p f op s = op s := by
  simp [inPhase, h, hp]

theorem inPhase_of_ne {s : State} (h : s.fault = none) {p : Phase} (hp : s.phase ≠ p) (f : FaultCode)
    (op : State → Host.Outcome State Fault Refusal) : inPhase p f op s = .next (raise f s) := by
  simp [inPhase, h, hp]

/-- Everything an operation behind the checks can do when it answers a next state. -/
theorem inPhase_next {s t : State} {p : Phase} {f : FaultCode} {op : State → Host.Outcome State Fault Refusal}
    (h : inPhase p f op s = .next t) :
    s.fault = none ∧ ((s.phase = p ∧ op s = .next t) ∨ (s.phase ≠ p ∧ t = raise f s)) := by
  cases hf : s.fault with
  | some code => simp [inPhase, hf] at h
  | none =>
    by_cases hp : s.phase = p
    · simp only [inPhase, hf, hp, if_true] at h
      exact ⟨rfl, .inl ⟨hp, h⟩⟩
    · simp only [inPhase, hf, hp, if_false, Host.Outcome.next.injEq] at h
      exact ⟨rfl, .inr ⟨hp, h.symm⟩⟩

/-- In the right phase, an operation behind the checks of 42_commands.md R160 is its own effect. -/
theorem whenReady_of_ready {s : State} (h : s.fault = none) (hp : s.phase = .ready) (name : OpName)
    (op : State → Host.Outcome State Fault Refusal) : whenReady name op s = op s :=
  inPhase_of_phase h hp _ _

end Sys2Proof.Machine
end

