-- ==== Sys2Proof/Laws/Transmit.lean ====
section
/-! SUPPORT. What `transmit` and the senders do: they append events and change nothing else. -/

namespace Sys2Proof.Machine

/-- A transmission of a legal width appends its variant's events. -/
theorem transmit_eq (v : Byte) (m : Mode) {w : Nat} (hw : w = 4 ∨ w = 8) (s : State) :
    transmit v m w s = s.emit (txEvents s.cfg v m w) := by
  simp [transmit, hw]

/-- Sending a byte appends `sendEvents` (40_transmission.md R115). -/
theorem send_eq (v : Byte) (m : Mode) {s : State} (h : s.fault = none) :
    send v m s = s.emit (sendEvents s.cfg v m) := by
  unfold send sendEvents sendValues
  split
  · simp [transmit_eq, *]
  · simp [perform, transmit_eq, h]

theorem sendCmd_eq (v : Byte) {s : State} (h : s.fault = none) :
    sendCmd v s = s.emit (sendEvents s.cfg v .command) := send_eq v .command h

theorem sendData_eq (v : Byte) {s : State} (h : s.fault = none) :
    sendData v s = s.emit (sendEvents s.cfg v .data) := send_eq v .data h

theorem sendInstr_eq (byte : HdEnc → Byte) {s : State} (h : s.fault = none) :
    sendInstr byte s = s.emit (sendEvents s.cfg (byte s.cfg.hdEnc) .command) := send_eq _ .command h

theorem sendFn_eq {s : State} (h : s.fault = none) :
    sendFn s = s.emit (sendEvents s.cfg (encFn s.cfg.hdEnc s.fn) .command) := send_eq _ .command h

theorem sendCtl_eq {s : State} (h : s.fault = none) :
    sendCtl s = s.emit (sendEvents s.cfg (encCtl s.cfg.hdEnc s.ctl) .command) := send_eq _ .command h

theorem sendEnt_eq {s : State} (h : s.fault = none) :
    sendEnt s = s.emit (sendEvents s.cfg (encEnt s.cfg.hdEnc s.ent) .command) := send_eq _ .command h

end Sys2Proof.Machine
end

