-- ==== Sys2Proof/Laws/Views.lean ====
section
/-! SUPPORT. The views of Machine/Views.lean over a trace that grew: each reads the new events from where the old ones
left it. -/

namespace Sys2Proof.Machine

theorem levelFrom_append (p : Pin) (cur : Option Level) (a b : List Event) :
    levelFrom p cur (a ++ b) = levelFrom p (levelFrom p cur a) b := by
  induction a generalizing cur with
  | nil => rfl
  | cons e a ih => cases e <;> simp [levelFrom, ih]

theorem level_append (p : Pin) (a b : List Event) : level (a ++ b) p = levelFrom p (level a p) b :=
  levelFrom_append p none a b

theorem shiftContentsFrom_append (cur : Option Nat) (a b : List Event) :
    shiftContentsFrom cur (a ++ b) = shiftContentsFrom (shiftContentsFrom cur a) b := by
  induction a generalizing cur with
  | nil => rfl
  | cons e a ih => cases e <;> simp [shiftContentsFrom, ih]

theorem shiftContents_append (a b : List Event) :
    shiftContents (a ++ b) = shiftContentsFrom (shiftContents a) b :=
  shiftContentsFrom_append none a b

theorem latchContentsFrom_append (l : Pin) (word : Option Nat) (lvl : Option Level) (out : Option Nat)
    (a b : List Event) :
    latchContentsFrom l word lvl out (a ++ b) =
      latchContentsFrom l (shiftContentsFrom word a) (levelFrom l lvl a) (latchContentsFrom l word lvl out a) b := by
  induction a generalizing word lvl out with
  | nil => rfl
  | cons e a ih =>
    cases e <;> simp only [List.cons_append, latchContentsFrom, shiftContentsFrom, levelFrom, ih]
    split <;> rfl

theorem latchContents_append (l : Pin) (a b : List Event) :
    latchContents (a ++ b) l = latchContentsFrom l (shiftContents a) (level a l) (latchContents a l) b :=
  latchContentsFrom_append l none none none a b

theorem riseSamples_append (w : Wiring) (earlier a b : List Event) :
    riseSamples w earlier (a ++ b) = riseSamples w earlier a ++ riseSamples w (earlier ++ a) b := by
  induction a generalizing earlier with
  | nil => simp [riseSamples]
  | cons e a ih =>
    simp only [List.cons_append, riseSamples, ih, List.append_assoc, List.nil_append]
    split <;> simp

/-- Events that leave the enable line as it is make no pulse. -/
theorem riseSamples_quiet (w : Wiring) (earlier a : List Event)
    (h : ∀ e ∈ a, ∀ before, enableLevel w (before ++ [e]) = enableLevel w before) :
    riseSamples w earlier a = [] ∧ enableLevel w (earlier ++ a) = enableLevel w earlier := by
  induction a generalizing earlier with
  | nil => simp [riseSamples]
  | cons e a ih =>
    obtain ⟨h1, h2⟩ := ih (earlier ++ [e]) (fun x hx => h x (List.mem_cons_of_mem _ hx))
    have h3 := h e (by simp) earlier
    exact ⟨by simp [riseSamples, h1, h3], by rw [← h3, ← h2]; simp⟩

theorem testBit_mask (ps : List Pos) (q : Nat) :
    (ps.foldr (fun p mask => 1 <<< p ||| mask) 0).testBit q = decide (q ∈ ps) := by
  induction ps with
  | nil => simp
  | cons p ps ih =>
    have h : (1 <<< p : Nat).testBit q = decide (q = p) := by
      rw [Nat.one_shiftLeft, Nat.testBit_two_pow]
      exact decide_eq_decide.2 eq_comm
    simp [Nat.testBit_or, ih, h]

/-- Clearing bits keeps every other one. -/
theorem testBit_clearBits (ps : List Pos) (word q : Nat) :
    (clearBits ps word).testBit q = (word.testBit q && decide (q ∉ ps)) := by
  simp only [clearBits, Nat.testBit_xor, Nat.testBit_and, testBit_mask]
  by_cases h : q ∈ ps <;> simp [h]

theorem blockingTime_append (a b : List Event) : blockingTime (a ++ b) = blockingTime a + blockingTime b := by
  induction a with
  | nil => simp [blockingTime]
  | cons e a ih => cases e <;> simp [blockingTime, ih, Nat.add_assoc]

end Sys2Proof.Machine
end

