-- ==== Sys2Proof/Tests/Slice0.lean ====
section
/-! SUPPORT. Tests and witnesses. Expected values are those of spec/95_test_vectors.md (the vector is named in the
docstring), of the opcode table's patterns, or computed by hand from the rule named. `witness_<Name>` shows states and
operands that meet every hypothesis of `Obligations.<Name>`. -/

namespace Sys2Proof.Tests

open Sys2Proof Sys2Proof.Machine

/-! ## Configurations of 40_transmission.md and 95_test_vectors.md -/

def dir8Wiring : DirectWiring := { rs := 12, rw := some 10, en := 11, data := [2, 3, 4, 5, 6, 7, 8, 9], bw := 8 }

def srlWiring : ShiftRegWiring :=
  { sdata := 11, sclk := 12, latch := some 10, enPin := some 9, rsPos := 0, enPos := none, rwPos := none
    dataPos := [4, 5, 6, 7], bw := 4 }

def sreWiring : ShiftRegWiring :=
  { sdata := 11, sclk := 12, latch := none, enPin := none, rsPos := 1, enPos := some 3, rwPos := some 2
    dataPos := [4, 5, 6, 7], bw := 4 }

/-- A shift register with a dedicated enable pin and no latch: the third shape of 40_transmission.md R105. -/
def srpWiring : ShiftRegWiring := { srlWiring with latch := none }

def withWiring (w : Wiring) : Config := { wiring := w, timing := Timing.default, srWordBits := 8, hdEnc := HdEnc.standard }

def dir8 : Config := withWiring (.direct dir8Wiring)
def srl : Config := withWiring (.shiftReg srlWiring)
def sre : Config := withWiring (.shiftReg sreWiring)
def srp : Config := withWiring (.shiftReg srpWiring)
def cb8 : Config := withWiring (.callback { cb := 0, bw := 8 })
def cb4 : Config := withWiring (.callback { cb := 0, bw := 4 })

/-! ## Small states and readers -/

/-- A ready block as `begin(16, rows, Font5x8)` leaves its registers, its trace emptied so that a test sees only the new
events. -/
def readyState (cfg : Config) (rows : Byte) : State :=
  { State.constructed cfg with
    phase := .ready
    fn := { DL := cfg.bw == 8, N := Reg.holding (decide (2 ≤ rows.toNat)), F := Reg.holding false }
    ctl := { D := Reg.holding true, C := Reg.holding false, B := Reg.holding false }
    ent := { ID := Reg.holding true, SH := Reg.holding false }
    lineCount := Reg.holding rows
    currentLine := Reg.holding 0
    numCols := Reg.holding 16 }

/-- The ready block of section 2.6: CB8, two lines. -/
def r8 : State := readyState cb8 2

def ctlOf (d c b : Bool) : CtlFlags := { D := Reg.holding d, C := Reg.holding c, B := Reg.holding b }

def entOf (id sh : Bool) : EntFlags := { ID := Reg.holding id, SH := Reg.holding sh }

def nextOf (o : Host.Outcome State Fault Refusal) : Option State :=
  match o with
  | .next t => some t
  | .fault _ => none
  | .refused _ => none

/-- The events a step of a block adds to an empty trace. -/
def eventsOf (i : Instr) (s : State) : Option (List Event) := (nextOf (exec i s)).map (fun t => t.trace)

/-- The bus word `0:v` under CB8. -/
def cmd8 (v : Byte) : List Event := [.call v .command 8, .delay 100]

/-- The bus word `1:v` under CB8. -/
def dat8 (v : Byte) : List Event := [.call v .data 8, .delay 100]

def levels (ps : List Pin) (s : State) : List (Option Level) := ps.map (fun p => level s.trace p)

/-! ## Construction: one ill-formed term for each check, refused -/

theorem test_examples_wellFormed :
    Config.dir4.wf ∧ dir8.wf ∧ srl.wf ∧ sre.wf ∧ srp.wf ∧ cb8.wf ∧ cb4.wf := by decide

/-- F12. -/
theorem test_refused_bw : construct (withWiring (.callback { cb := 0, bw := 6 })) = .refused (.cfgInvalid .bw) := rfl

/-- F9. -/
theorem test_refused_dataLen :
    construct (withWiring (.direct { rs := 12, rw := none, en := 11, data := [5, 4, 3], bw := 4 })) =
      .refused (.cfgInvalid .dataLen) := rfl

/-- F10. -/
theorem test_refused_pinDup :
    construct (withWiring (.direct { rs := 12, rw := none, en := 12, data := [5, 4, 3, 2], bw := 4 })) =
      .refused (.cfgInvalid .pinDup) := rfl

theorem test_refused_enChoice_both :
    construct (withWiring (.shiftReg { sreWiring with enPin := some 9 })) = .refused (.cfgInvalid .enChoice) := rfl

theorem test_refused_enChoice_neither :
    construct (withWiring (.shiftReg { sreWiring with enPos := none })) = .refused (.cfgInvalid .enChoice) := rfl

/-- F8. -/
theorem test_refused_latchEn :
    construct (withWiring (.shiftReg { sreWiring with latch := some 10 })) = .refused (.cfgInvalid .latchEn) := rfl

/-- Position 8 is past an 8-bit word (10_state.md R22 (c)). -/
theorem test_refused_posRange :
    construct (withWiring (.shiftReg { srlWiring with rsPos := 8 })) = .refused (.cfgInvalid .posRange) := rfl

/-- F11, eight data positions and one of them used twice. -/
theorem test_refused_posDup :
    construct (withWiring (.shiftReg { srlWiring with dataPos := [0, 1, 2, 3, 4, 5, 6, 7], bw := 8 })) =
      .refused (.cfgInvalid .posDup) := rfl

theorem test_timing_below_each_bound :
    ¬ ({ Timing.default with tPowerOn := 49999 } : Timing).wf ∧ ¬ ({ Timing.default with tInitLong := 4499 } : Timing).wf ∧
    ¬ ({ Timing.default with tInitShort := 149 } : Timing).wf ∧ ¬ ({ Timing.default with tEnHigh := 0 } : Timing).wf ∧
    ¬ ({ Timing.default with tSettle := 99 } : Timing).wf ∧ ¬ ({ Timing.default with tClear := 1999 } : Timing).wf := by
  decide

theorem test_refused_timing :
    construct { cb8 with timing := { Timing.default with tClear := 1999 } } = .refused .timingBelowBound := rfl

/-! ## Decoding: words written out from the table's patterns, RS first -/

theorem test_decode_bare_begin : decodeTableWord 16 0b000101100 = some (.begin 0 2 .font5x10) := by decide
theorem test_decode_bare_clear : decodeTableWord 16 0b000000001 = some .clear := by decide
theorem test_decode_bare_home : decodeTableWord 16 0b000000010 = some .home := by decide
theorem test_decode_bare_setCursor : decodeTableWord 16 0b011000011 = some (.setCursor 0x43 0) := by decide
theorem test_decode_bare_noDisplay : decodeTableWord 16 0b000001000 = some .noDisplay := by decide
theorem test_decode_bare_display : decodeTableWord 16 0b000001100 = some .display := by decide
theorem test_decode_bare_cursor : decodeTableWord 16 0b000001010 = some .cursor := by decide
theorem test_decode_bare_blink : decodeTableWord 16 0b000001001 = some .blink := by decide
theorem test_decode_bare_scrollDisplayLeft : decodeTableWord 16 0b000011000 = some .scrollDisplayLeft := by decide
theorem test_decode_bare_scrollDisplayRight : decodeTableWord 16 0b000011100 = some .scrollDisplayRight := by decide
theorem test_decode_bare_leftToRight : decodeTableWord 16 0b000000110 = some .leftToRight := by decide
theorem test_decode_bare_rightToLeft : decodeTableWord 16 0b000000100 = some .rightToLeft := by decide
theorem test_decode_bare_autoscroll : decodeTableWord 16 0b000000101 = some .autoscroll := by decide
theorem test_decode_bare_createChar :
    decodeTableWord 16 0b001111000 = some (.createChar 7 ⟨0, 0, 0, 0, 0, 0, 0, 0⟩) := by decide
theorem test_decode_bare_write : decodeTableWord 16 0b101000001 = some (.write 0x41) := by decide
theorem test_decode_bare_command : decodeTableWord 16 0b000010000 = some (.command 0x10) := by decide

/-- The three rows whose bare word another row sends too: only a request filed under their number names them (log 2). -/
theorem test_decode_filed_ambiguous :
    decode [0x08, 14] = .ok (.noCursor, []) ∧ decode [0x08, 18] = .ok (.noBlink, []) ∧
      decode [0x04, 32] = .ok (.noAutoscroll, []) := ⟨rfl, rfl, rfl⟩

theorem test_decode_filed_operands :
    decode [0x24, 0x02, 8, 1, 1, 0xAA] = .ok (.begin 8 1 .font5x10, [0xAA]) ∧
    decode [0x80, 0x08, 3, 1] = .ok (.setCursor 3 1, []) ∧
    decode [0x50, 0x22, 2, 1, 2, 3, 4, 5, 6, 7, 8] = .ok (.createChar 2 ⟨1, 2, 3, 4, 5, 6, 7, 8⟩, []) ∧
    decode [0x41, 0x25] = .ok (.write 0x41, []) ∧ decode [0x0F, 0x26] = .ok (.command 0x0F, []) :=
  ⟨rfl, rfl, rfl, rfl, rfl⟩

theorem test_decode_rejected :
    decode [] = .error .truncated ∧ decode [0x01] = .error .truncated ∧
    decode [0x80, 0x08, 3] = .error .truncated ∧
    decode [0x01, 40] = .error (.noSuchRow 20) ∧
    decode [0x02, 4] = .error (.wordNotOfRow .clear) ∧ decode [0x01, 5] = .error (.wordNotOfRow .clear) ∧
    decode [0x20, 0x02, 16, 2, 2] = .error (.badFont 2) := ⟨rfl, rfl, rfl, rfl, rfl, rfl, rfl⟩

/-! ## Transmissions, T1 to T8 -/

theorem test_tx_direct4 :
    txEvents Config.dir4 0x3 .command 4 =
      [.write 12 .low, .write 5 .high, .write 4 .high, .write 3 .low, .write 2 .low, .write 11 .low, .write 11 .high,
        .delay 1, .write 11 .low, .delay 100] ∧
    txEvents Config.dir4 0x13 .command 4 = txEvents Config.dir4 0x3 .command 4 := by decide

theorem test_tx_direct8 :
    txEvents dir8 0x41 .data 8 =
      [.write 12 .high, .write 10 .low, .write 2 .high, .write 3 .low, .write 4 .low, .write 5 .low, .write 6 .low,
        .write 7 .low, .write 8 .high, .write 9 .low, .write 11 .low, .write 11 .high, .delay 1, .write 11 .low,
        .delay 100] := by decide

theorem test_tx_shiftReg :
    txEvents srl 0x4 .data 4 =
      [.shift 11 12 0x41, .write 10 .low, .write 10 .high, .write 9 .high, .delay 1, .write 9 .low, .delay 100] ∧
    txEvents sre 0x1 .command 4 = [.shift 11 12 0x18, .shift 11 12 0x10, .delay 100] ∧
    txEvents sre 0xF .data 4 = [.shift 11 12 0xFA, .shift 11 12 0xF2, .delay 100] := by decide

theorem test_tx_callback :
    txEvents cb8 0x41 .data 8 = [.call 0x41 .data 8, .delay 100] ∧
    txEvents cb4 0x00 .command 4 = [.call 0x00 .command 4, .delay 100] := by decide

/-- S1, S2, S4, S5. -/
theorem test_send_splits :
    sendValues 4 0x28 = [0x2, 0x8] ∧ sendValues 4 0x00 = [0, 0] ∧ sendValues 8 0xFF = [0xFF] ∧
    sendEvents cb4 0xA5 .data = [.call 0x0A .data 4, .delay 100, .call 0x05 .data 4, .delay 100] := by decide

/-- 20_memory.md R67: most significant bit first. -/
theorem test_serialBits : serialBits 8 0x41 = [false, true, false, false, false, false, false, true] := by decide

/-- HD_ENC is the block's own parameter (00_scope.md R7): with another CLEAR, another byte and the same rest. -/
theorem test_clear_under_another_hdEnc :
    exec .clear (r8.withHdEnc { HdEnc.standard with clear := 0xC1 }) =
      .next { r8.withHdEnc { HdEnc.standard with clear := 0xC1 } with trace := cmd8 0xC1 ++ [.delay 2000] } := rfl

/-- A shape keeps what is not data: register-select at bit 1 and enable at bit 3 of SRE's word, pin 12 of DIR4, the mode
and width of a call. -/
theorem test_shape :
    Event.shape sre.wiring (.shift 11 12 0xFA) = .shift 11 12 0x0A ∧
    Event.shape Config.dir4.wiring (.write 12 .high) = .write 12 .high ∧
    Event.shape Config.dir4.wiring (.write 5 .high) = .write 5 .low ∧
    Event.shape srl.wiring (.write 10 .high) = .write 10 .high ∧
    Event.shape cb8.wiring (.call 0x41 .data 8) = .call 0 .data 8 := by decide

/-- W8. -/
theorem test_latch_pulses :
    eventsOf (.command 0x0C) (readyState srl 2) = some
      [.shift 11 12 0x00, .write 10 .low, .write 10 .high, .write 9 .high, .delay 1, .write 9 .low, .delay 100,
       .shift 11 12 0xC0, .write 10 .low, .write 10 .high, .write 9 .high, .delay 1, .write 9 .low, .delay 100] := by
  decide

/-! ## begin -/

/-- B5 and B6, whole traces. -/
theorem test_begin_callback8 :
    eventsOf (.begin 20 4 .font5x8) (State.constructed cb8) = some
      ([.delay 50000] ++ cmd8 0x38 ++ [.delay 4500] ++ cmd8 0x38 ++ [.delay 150] ++ cmd8 0x38 ++ cmd8 0x38 ++
        cmd8 0x0C ++ cmd8 0x01 ++ [.delay 2000] ++ cmd8 0x06) := by decide

theorem test_begin_callback4 :
    (eventsOf (.begin 16 1 .font5x10) (State.constructed cb4)).map
      (fun l => l.filterMap (fun e => match e with | .call v _ _ => some v.toNat | _ => none)) =
      some [3, 3, 3, 2, 2, 4, 0, 0xC, 0, 1, 0, 6] := by decide

/-- B1 to B6: the number of events and the sum of the delays. -/
theorem test_begin_counts :
    (eventsOf (.begin 16 2 .font5x8) (State.constructed Config.dir4)).map (fun l => (l.length, blockingTime l)) =
      some (132, 62362) ∧
    (eventsOf (.begin 16 1 .font5x10) (State.constructed dir8)).map (fun l => (l.length, blockingTime l)) =
      some (121, 57357) ∧
    (eventsOf (.begin 16 2 .font5x8) (State.constructed srl)).map (fun l => (l.length, blockingTime l)) =
      some (94, 62362) ∧
    (eventsOf (.begin 20 4 .font5x8) (State.constructed sre)).map (fun l => (l.length, blockingTime l)) =
      some (43, 62350) ∧
    (eventsOf (.begin 20 4 .font5x8) (State.constructed cb8)).map (fun l => (l.length, blockingTime l)) =
      some (18, 57350) ∧
    (eventsOf (.begin 16 1 .font5x10) (State.constructed cb4)).map (fun l => (l.length, blockingTime l)) =
      some (29, 62350) := by decide +kernel

/-- W6, end state; B7: the font is ignored with two lines. -/
theorem test_begin_registers :
    (nextOf (exec (.begin 16 2 .font5x10) State.reset)).map (fun t => (t.phase, t.fault, t.fn, t.ctl, t.ent)) =
      some (.ready, none, { DL := false, N := Reg.holding true, F := Reg.holding false }, ctlOf true false false,
        entOf true false) ∧
    (nextOf (exec (.begin 16 2 .font5x10) State.reset)).map (fun t => (t.lineCount, t.currentLine, t.numCols)) =
      some (Reg.holding 2, Reg.holding 0, Reg.holding 16) := by decide +kernel

/-! ## The other operations, section 2.6 -/

/-- C1, C3: no register follows a raw byte, and no T_CLEAR is added. -/
theorem test_command :
    exec (.command 0x0F) r8 = .next { r8 with trace := cmd8 0x0F } ∧
    exec (.command 0x01) r8 = .next { r8 with trace := cmd8 0x01 } := ⟨rfl, rfl⟩

/-- C4, C6. -/
theorem test_write :
    exec (.write 0x41) r8 = .next { r8 with trace := dat8 0x41, ret := some 1 } ∧
    exec (.write 0xFF) r8 = .next { r8 with trace := dat8 0xFF, ret := some 1 } := ⟨rfl, rfl⟩

/-- C7. -/
theorem test_clear : exec .clear r8 = .next { r8 with trace := cmd8 0x01 ++ [.delay 2000] } := rfl

/-- C8. -/
theorem test_home : exec .home r8 = .next { r8 with trace := cmd8 0x02 ++ [.delay 2000] } := rfl

/-- C9 to C13: the address, the clamp, the wrap. -/
theorem test_setCursor :
    eventsOf (.setCursor 0 0) r8 = some (cmd8 0x80) ∧ eventsOf (.setCursor 3 1) r8 = some (cmd8 0xC3) ∧
    eventsOf (.setCursor 0 5) r8 = some (cmd8 0xC0) ∧ eventsOf (.setCursor 0x40 1) r8 = some (cmd8 0x80) ∧
    eventsOf (.setCursor 0xFF 3) r8 = some (cmd8 0xBF) := by decide

/-- C14 and W2, by line count. -/
theorem test_setCursor_lines :
    eventsOf (.setCursor 5 3) (readyState cb8 1) = some (cmd8 0x85) ∧
    eventsOf (.setCursor 2 200) (readyState cb8 3) = some (cmd8 0x96) ∧
    eventsOf (.setCursor 5 7) (readyState cb8 4) = some (cmd8 0xD9) ∧
    eventsOf (.setCursor 0xFF 3) (readyState cb8 4) = some (cmd8 0xD3) := by decide

/-- C15, C16. -/
theorem test_noDisplay :
    exec .noDisplay r8 = .next { r8 with ctl := ctlOf false false false, trace := cmd8 0x08 } := rfl
theorem test_display :
    exec .display r8 = .next { r8 with ctl := ctlOf true false false, trace := cmd8 0x0C } := rfl

/-- C17, C18. -/
theorem test_cursor : exec .cursor r8 = .next { r8 with ctl := ctlOf true true false, trace := cmd8 0x0E } := rfl
theorem test_noCursor :
    exec .noCursor { r8 with ctl := ctlOf true true false } =
      .next { r8 with ctl := ctlOf true false false, trace := cmd8 0x0C } := rfl

/-- By hand from 30_encoding.md R84 and 42_commands.md R169: D = 1 is sent as it is, so 0x08 + 4. The example in R94 has
0x08 (log 17). -/
theorem test_noCursor_keeps_display_bit : eventsOf .noCursor r8 = some (cmd8 0x0C) := by decide

/-- C19, C21. -/
theorem test_blink :
    exec .blink r8 = .next { r8 with ctl := ctlOf true false true, trace := cmd8 0x0D } ∧
    exec .blink { r8 with ctl := ctlOf false false false } =
      .next { r8 with ctl := ctlOf false false true, trace := cmd8 0x09 } := ⟨rfl, rfl⟩

/-- C20. -/
theorem test_noBlink :
    exec .noBlink { r8 with ctl := ctlOf true true true } =
      .next { r8 with ctl := ctlOf true true false, trace := cmd8 0x0E } := rfl

/-- C22, C23. -/
theorem test_scrollDisplayLeft : exec .scrollDisplayLeft r8 = .next { r8 with trace := cmd8 0x18 } := rfl
theorem test_scrollDisplayRight : exec .scrollDisplayRight r8 = .next { r8 with trace := cmd8 0x1C } := rfl

/-- C24 to C27. -/
theorem test_leftToRight :
    exec .leftToRight { r8 with ent := entOf false false } =
      .next { r8 with ent := entOf true false, trace := cmd8 0x06 } := rfl
theorem test_rightToLeft : exec .rightToLeft r8 = .next { r8 with ent := entOf false false, trace := cmd8 0x04 } := rfl
theorem test_autoscroll : exec .autoscroll r8 = .next { r8 with ent := entOf true true, trace := cmd8 0x07 } := rfl
theorem test_noAutoscroll :
    exec .noAutoscroll { r8 with ent := entOf false true } =
      .next { r8 with ent := entOf false false, trace := cmd8 0x04 } := rfl

/-- C29. -/
theorem test_createChar :
    eventsOf (.createChar 2 ⟨0x1F, 0x11, 0x12, 0x13, 0x14, 0x15, 0x16, 0x00⟩) r8 = some
      (cmd8 0x50 ++ dat8 0x1F ++ dat8 0x11 ++ dat8 0x12 ++ dat8 0x13 ++ dat8 0x14 ++ dat8 0x15 ++ dat8 0x16 ++
        dat8 0x00) := by decide

/-- W3, and the counts of the table at the end of section 2.6. -/
theorem test_createChar_masks :
    [0, 7, 8, 9, 255].map (fun l => (cgramByte HdEnc.standard l).toNat) = [0x40, 0x78, 0x40, 0x48, 0x78] ∧
    (eventsOf (.createChar 9 ⟨0, 0, 0, 0, 0, 0, 0, 0⟩) (readyState Config.dir4 2)).map List.length = some 180 := by
  decide +kernel

/-- P1: what the pins hold after `write(0x69)` under DIR4. -/
theorem test_levels_after_write :
    (nextOf (exec (.write 0x69) (readyState Config.dir4 2))).map (levels [12, 11, 5, 4, 3, 2]) =
      some [some .high, some .low, some .high, some .low, some .low, some .high] := by decide

/-- The nibbles the controller hears of `write(0x69)` through the latch: 6 and then 9, both as data. -/
theorem test_heard_through_latch :
    (nextOf (exec (.write 0x69) (readyState srl 2))).map State.heard = some [heardAs .data 6 4, heardAs .data 9 4] := by
  decide

/-! ## Faults, F1 to F7, C31 -/

theorem test_notReady : exec .clear State.reset = .next { State.reset with fault := some (.notReady .clear) } := rfl

theorem test_badRows :
    exec (.begin 16 0 .font5x8) State.reset = .next { State.reset with fault := some (.badRows 0) } ∧
    exec (.begin 16 5 .font5x8) State.reset = .next { State.reset with fault := some (.badRows 5) } := ⟨rfl, rfl⟩

theorem test_rebegin :
    exec (.begin 16 9 .font5x8) r8 = .next { r8 with fault := some .rebegin } := rfl

theorem test_faulted_block_stops :
    exec (.begin 16 2 .font5x8) { State.reset with fault := some (.notReady .clear) } =
      .fault (.blockFaulted (.notReady .clear)) ∧
    exec (.write 0x41) { r8 with fault := some .rebegin } = .fault (.blockFaulted .rebegin) := ⟨rfl, rfl⟩

/-! ## Witnesses: states and operands that meet each statement's hypotheses -/

theorem witness_ShiftWordBits :
    (Wiring.shiftReg sreWiring).wf 8 ∧ (4 ≤ sreWiring.bw) ∧ sreWiring.enPos = some 3 ∧ sreWiring.rwPos = some 2 ∧
    sreWiring.dataPos[0]? = some 4 ∧ sreWiring.dataPos[3]? = some 7 ∧
    (0 ≠ sreWiring.rsPos ∧ sreWiring.enPos ≠ some 0 ∧ ∀ i, i < 4 → sreWiring.dataPos[i]? ≠ some 0) ∧
    (8 ≠ sreWiring.rsPos ∧ sreWiring.enPos ≠ some 8 ∧ ∀ i, i < 4 → sreWiring.dataPos[i]? ≠ some 8) := by decide

theorem witness_SentWordFitsTableRow :
    r8.cfg.hdEnc = HdEnc.standard ∧ opWords .clear r8 = [⟨.command, 0x01⟩] ∧ (opWords (.createChar 0 ⟨0, 0, 0, 0, 0, 0, 0, 0⟩) r8).length = 9 := by
  decide

theorem witness_AddressBytes : (0 < 4) ∧ (3 < 4) ∧ ddramByte HdEnc.standard 19 3 = 0xE7 ∧ ddramByte HdEnc.standard 0xFF 3 = 0xD3 := by decide

theorem witness_ConstructionSucceedsExactlyWhenWellFormed : Timing.default.wf := by decide

/-- Every reason is met: the `test_refused_` theorems above; here the three a Shift-Register wiring alone can give. -/
theorem witness_RefusalNamesAFailingCondition :
    (∃ cfg, construct cfg = .refused (.cfgInvalid .latchEn)) ∧ (∃ cfg, construct cfg = .refused (.cfgInvalid .posRange)) ∧
    (∃ cfg, construct cfg = .refused (.cfgInvalid .posDup)) :=
  ⟨⟨_, test_refused_latchEn⟩, ⟨_, test_refused_posRange⟩, ⟨_, test_refused_posDup⟩⟩

theorem witness_EightBitShiftRegisterNeedsAWiderWord :
    ({ srlWiring with dataPos := [0, 1, 2, 3, 4, 5, 6, 7], bw := 8 } : ShiftRegWiring).bw = 8 ∧ 8 ≤ 8 ∧ 0 ≤ 8 :=
  ⟨rfl, by decide, by decide⟩

theorem witness_ConstructedBlockIsReset : construct cb8 = .next (State.constructed cb8) := rfl

theorem witness_StepRunsTheIssuedOperation :
    ({ r8 with pending := [.home, .clear] } : State).pending = .home :: [.clear] ∧ State.reset.pending = [] ∧
    decodeTableWord 16 0b000000010 = some .home := by decide

theorem witness_OperationsBeforeBeginAreNotReady : Instr.clear.op ≠ .begin ∧ State.reset.isFresh := by decide

theorem witness_BeginContractFaults : State.reset.isFresh ∧ 4 < (5 : Byte).toNat ∧ r8.isReady := by decide

theorem witness_FaultedBlockHasNoStep :
    ({ r8 with fault := some .rebegin } : State).fault = some .rebegin := rfl

theorem witness_BadWidthEndsAnOperation :
    5 ≠ 4 ∧ 5 ≠ 8 ∧ (perform [transmit 0x3 .command 4] (readyState Config.dir4 2)).fault = none := by decide

theorem witness_BeginCompletes :
    State.reset.isFresh ∧ (1 ≤ (1 : Byte).toNat ∧ (1 : Byte).toNat ≤ 4) ∧ (1 ≤ (4 : Byte).toNat ∧ (4 : Byte).toNat ≤ 4) := by
  decide

theorem witness_RawOperationsSendTheirByte : r8.isReady := by decide
theorem witness_ClearAndHomeSendAndWait : (readyState srl 2).isReady := by decide

/-- Both clauses at the rows where they meet: the last row and the one past it. -/
theorem witness_SetCursorSendsTheAddress :
    r8.isReady ∧ (1 : Byte).toNat < r8.lineCount.read.toNat ∧ r8.lineCount.read.toNat ≤ (2 : Byte).toNat := by decide

theorem witness_DisplayControlGroup :
    r8.isReady ∧ (∃ t, exec (.begin 16 2 .font5x8) (State.constructed cb8) = .next t ∧ t.fault = none) ∧
    (ctlBitsApart HdEnc.standard ∧ encCtl HdEnc.standard r8.ctl = encCtl HdEnc.standard (ctlOf true false false)) ∧
    (Instr.autoscroll.op ∉ [OpName.begin, .display, .noDisplay, .cursor, .noCursor, .blink, .noBlink] ∧
      ∃ t, exec .autoscroll r8 = .next t) :=
  ⟨by decide, ⟨_, rfl, rfl⟩, by decide, by decide, _, rfl⟩

theorem witness_EntryModeGroup :
    r8.isReady ∧ (∃ t, exec (.begin 16 2 .font5x8) (State.constructed cb8) = .next t ∧ t.fault = none) ∧
    (entBitsApart HdEnc.standard ∧ encEnt HdEnc.standard r8.ent = encEnt HdEnc.standard (entOf true false)) ∧
    (Instr.cursor.op ∉ [OpName.begin, .leftToRight, .rightToLeft, .autoscroll, .noAutoscroll] ∧
      ∃ t, exec .cursor r8 = .next t) :=
  ⟨by decide, ⟨_, rfl, rfl⟩, by decide, by decide, _, rfl⟩

theorem witness_ScrollsSendTheirByte : (readyState sre 2).isReady := by decide
theorem witness_CreateCharSendsSlotAndRows : (readyState Config.dir4 1).isReady := by decide
theorem witness_OperationEmitsItsWords : Instr.home.op ≠ .begin ∧ r8.isReady := by decide
theorem witness_SendSplitsTheByte : r8.fault = none ∧ (readyState Config.dir4 2).fault = none := by decide

/-- Both widths, and a width below the number of data pins. -/
theorem witness_DirectTransmission :
    (∃ c, (readyState Config.dir4 2).cfg.wiring = .direct c ∧ 4 ≤ c.data.length ∧ c.rw = none) ∧
    (∃ c, (readyState dir8 2).cfg.wiring = .direct c ∧ 8 ≤ c.data.length ∧ 4 ≤ c.data.length ∧ c.rw = some 10) :=
  ⟨⟨_, rfl, by decide, rfl⟩, ⟨_, rfl, by decide, by decide, rfl⟩⟩

/-- The three shapes. -/
theorem witness_ShiftRegisterTransmission :
    ((readyState srl 2).cfg.wiring = .shiftReg srlWiring ∧ srlWiring.enPin = some 9 ∧ srlWiring.latch = some 10) ∧
    ((readyState srp 2).cfg.wiring = .shiftReg srpWiring ∧ srpWiring.enPin = some 9 ∧ srpWiring.latch = none) ∧
    ((readyState sre 2).cfg.wiring = .shiftReg sreWiring ∧ sreWiring.enPin = none ∧ sreWiring.latch = none) := by decide

/-- Both widths; in 4-bit mode a call of a byte and one of `begin`. -/
theorem witness_CallbackTransmission :
    r8.cfg.wiring = .callback { cb := 0, bw := 8 } ∧ (readyState cb4 2).cfg.wiring = .callback { cb := 0, bw := 4 } ∧
    Event.call 0x0F .data 4 ∈ sendEvents cb4 0xF5 .data ∧ Event.call 0x08 .command 4 ∈ beginEvents cb4 0x28 := by
  decide

theorem witness_UpperBitsAreIgnored :
    drivesPins Config.dir4 = true ∧ drivesPins srl = true ∧
    ∀ i, i < 4 → (0x13 : Byte).getLsbD i = (0x03 : Byte).getLsbD i := by decide

theorem witness_TransmissionCountsAndEnd : Config.dir4.wf ∧ srl.wf ∧ srp.wf ∧ sre.wf ∧ cb8.wf := by decide

theorem witness_LatchPulsesOncePerTransmission :
    srl.wf ∧ srl.wiring = .shiftReg srlWiring ∧ srlWiring.latch = some 10 ∧ srl.bw = 4 := by decide

theorem witness_InitPinsCoverTheWiring : dir8.wf ∧ srl.wf ∧ cb4.wf := by decide

/-- Each pin-driven shape: ready, well-formed, enable idle; and the operation answers a next state. -/
theorem witness_ControllerHearsTheWords :
    ∀ cfg ∈ [Config.dir4, dir8, srl, srp, sre],
      (readyState cfg 2).isReady ∧ cfg.wf ∧ drivesPins cfg = true ∧
      enableLevel cfg.wiring (readyState cfg 2).trace ≠ some true ∧
      (nextOf (exec (.write 0x41) (readyState cfg 2))).isSome = true := by decide +kernel

theorem witness_ControllerHearsBegin :
    ∀ cfg ∈ [Config.dir4, dir8, srl, srp, sre],
      (State.constructed cfg).isFresh ∧ cfg.hdEnc = HdEnc.standard ∧ cfg.wf ∧ drivesPins cfg = true ∧ (State.constructed cfg).trace = [] ∧
      (nextOf (exec (.begin 16 1 .font5x8) (State.constructed cfg))).isSome = true ∧
      (nextOf (exec (.begin 16 4 .font5x8) (State.constructed cfg))).isSome = true := by decide +kernel

theorem witness_BlockingTimes :
    (r8.isReady ∧ r8.cfg.wf ∧ ∃ t, exec .clear r8 = .next t) ∧
    ((State.constructed cb8).isFresh ∧ (State.constructed cb8).cfg.wf ∧
      ∃ t, exec (.begin 16 1 .font5x8) (State.constructed cb8) = .next t) :=
  ⟨⟨by decide, by decide, _, rfl⟩, by decide, by decide, _, rfl⟩

/-- A completed operation and a raised fault. -/
theorem witness_FrameOfEveryOperation :
    (∃ t, exec .display r8 = .next t) ∧ (∃ t, exec .display State.reset = .next t ∧ t.fault ≠ none) :=
  ⟨⟨_, rfl⟩, _, rfl, by decide⟩

theorem witness_TraceIsAppendOnlyAndUnread :
    (∃ t, exec (.write 0x41) r8 = .next t) ∧ (∃ f, exec .home { r8 with fault := some .rebegin } = .fault f) :=
  ⟨⟨_, rfl⟩, _, rfl⟩

theorem witness_NumColsIsSetAndNeverRead :
    ∃ t, exec (.begin 255 4 .font5x8) (State.constructed cb8) = .next t ∧ t.fault = none := ⟨_, rfl, rfl⟩

theorem witness_WhichOperationsReadWhichRegisters : Instr.home.op ≠ .setCursor ∧ Instr.home.op ≠ .begin := by decide

/-- Each of the three groups is changed by some operation. -/
theorem witness_ChangedGroupIsRetransmitted :
    (∃ t, exec .noDisplay r8 = .next t ∧ t.ctl ≠ r8.ctl) ∧ (∃ t, exec .autoscroll r8 = .next t ∧ t.ent ≠ r8.ent) ∧
    (∃ t, exec (.begin 16 2 .font5x8) (State.constructed cb8) = .next t ∧ t.fn ≠ (State.constructed cb8).fn) :=
  ⟨⟨_, rfl, by decide⟩, ⟨_, rfl, by decide⟩, _, rfl, by decide⟩

theorem witness_PhaseGoesFromPowerUnknownToReady :
    (∃ t, exec (.begin 16 2 .font5x8) (State.constructed cb8) = .next t ∧ t.fault = none) ∧
    (∃ t, exec .home r8 = .next t ∧ r8.phase = .ready) ∧
    (∃ t, exec .home State.reset = .next t ∧ Instr.home.op ≠ .begin) :=
  ⟨⟨_, rfl, rfl⟩, ⟨_, rfl, rfl⟩, _, rfl, by decide⟩

theorem witness_BeginPassesTheSourcesStates :
    (∃ t, exec (.begin 16 1 .font5x8) (State.constructed cb4) = .next t ∧ t.fault = none) ∧
    (∃ t, exec (.begin 16 4 .font5x8) (State.constructed cb8) = .next t ∧ t.fault = none) := ⟨⟨_, rfl, rfl⟩, _, rfl, rfl⟩

theorem witness_HdEncGivesByteValuesOnly :
    (∃ t, exec .clear r8 = .next t) ∧ (Instr.write 0x41).op = .write ∧
    (∃ f, exec .clear { r8 with fault := some .rebegin } = .fault f) := ⟨⟨_, rfl⟩, rfl, _, rfl⟩

/-- From both phases: a block that runs `begin`, and a ready one. -/
theorem witness_RegisterInvariantIsKept :
    (let s : State := { State.constructed cb8 with pending := [.begin 16 2 .font5x8] }
     s.registersOk ∧ ∃ t, step s = .next t) ∧
    (let s : State := { r8 with pending := [.cursor] }
     s.registersOk ∧ ∃ t, step s = .next t) :=
  ⟨⟨by decide, _, rfl⟩, by decide, _, rfl⟩

theorem witness_TraceInvariantIsKept :
    let s : State := { readyState srl 2 with pending := [.cursor], trace := txEvents srl 0x4 .data 4 }
    s.cfg.wf ∧ s.traceOk ∧ ∃ t, step s = .next t := by
  refine ⟨by decide, ?_, _, rfl⟩
  intro e he
  have h : e ∈ [Event.shift 11 12 0x41, .write 10 .low, .write 10 .high, .write 9 .high, .delay 1, .write 9 .low,
    .delay 100] := he
  simp only [List.mem_cons, List.not_mem_nil, or_false] at h
  rcases h with rfl | rfl | rfl | rfl | rfl | rfl | rfl <;>
    simp [Event.allowed, readyState, State.constructed, srl, withWiring, srlWiring, timingFields, Timing.default]

theorem witness_FaultInvariantIsKept :
    let s : State := { State.reset with pending := [.clear] }
    s.faultOk ∧ ∃ t, step s = .next t ∧ t.fault = some (.notReady .clear) :=
  ⟨nofun, _, rfl, rfl⟩

theorem witness_EnableInvariantIsKept :
    let s : State := { readyState sre 2 with pending := [.cursor], trace := txEvents sre 0x1 .command 4 }
    s.cfg.wf ∧ s.enableIdle ∧ ∃ t, step s = .next t := by
  refine ⟨by decide, ?_, _, rfl⟩
  unfold State.enableIdle
  decide

theorem witness_DisplayIsIdempotent : r8.isReady := by decide

/-- Each pair from a state where its bit was clear, and one where it was not. -/
theorem witness_SetClearPairsRestoreExactlyFromClear :
    r8.isReady ∧ (∃ t u, exec .cursor r8 = .next t ∧ exec .noCursor t = .next u ∧ u.ctl = r8.ctl) ∧
    (∃ t u, exec .display r8 = .next t ∧ exec .noDisplay t = .next u ∧ u.ctl ≠ r8.ctl) ∧
    (∃ t u, exec .blink r8 = .next t ∧ exec .noBlink t = .next u ∧ u.ctl = r8.ctl) ∧
    (∃ t u, exec .autoscroll r8 = .next t ∧ exec .noAutoscroll t = .next u ∧ u.ent = r8.ent) ∧
    (∃ t u, exec .leftToRight r8 = .next t ∧ exec .rightToLeft t = .next u ∧ u.ent ≠ r8.ent) :=
  ⟨by decide, ⟨_, _, rfl, rfl, rfl⟩, ⟨_, _, rfl, rfl, by decide⟩, ⟨_, _, rfl, rfl, rfl⟩, ⟨_, _, rfl, rfl, rfl⟩,
    ⟨_, _, rfl, rfl, by decide⟩⟩

theorem witness_ClampAndMask : r8.lineCount.read.toNat ≤ (2 : Byte).toNat := by decide

end Sys2Proof.Tests
end

/-! # The state family: what one operation does, said once

`exec` in closed form: an operation either finds the fault register set, or breaks a condition of its contract and
raises a fault, or completes with `opResult`. The obligations about the registers, the trace and the phase
(10_state.md) are read off that form. -/

namespace Sys2Proof.Machine

/-! ## The parts of an operation's effect -/

/-- The fault an operation raises in a phase, if any, in the order of 60_exceptions.md R223. -/
def opBreach (i : Instr) (p : Phase) : Option FaultCode :=
  match i with
  | .begin _ rows _ =>
    if p = .powerUnknown then
      if 1 ≤ rows.toNat ∧ rows.toNat ≤ 4 then none else some (.badRows rows)
    else some .rebegin
  | i => if p = .ready then none else some (.notReady i.op)

/-- The registers an operation that completes writes; the trace and the return value are apart. -/
def opWrites (i : Instr) (s : State) : State :=
  match i with
  | .begin cols rows font =>
    (((initRegisters cols rows font s).setCtl ctlAfterBegin).setEnt entAfterBegin).setPhase .ready
  | .display => s.setD true
  | .noDisplay => s.setD false
  | .cursor => s.setC true
  | .noCursor => s.setC false
  | .blink => s.setB true
  | .noBlink => s.setB false
  | .leftToRight => s.setID true
  | .rightToLeft => s.setID false
  | .autoscroll => s.setSH true
  | .noAutoscroll => s.setSH false
  | _ => s

/-- The events an operation that completes emits. -/
def opEvents (i : Instr) (s : State) : List Event :=
  match i with
  | .begin _ _ _ => beginEvents s.cfg (encFn s.cfg.hdEnc (opWrites i s).fn)
  | i => wordEvents s.cfg (opWords i s) ++ opTail i s.cfg.timing

/-- What an operation that completes returns (42_commands.md R184). -/
def opReturns (i : Instr) : Option Nat :=
  match i with
  | .write _ => some 1
  | _ => none

/-- The state an operation that completes leaves. -/
def opResult (i : Instr) (s : State) : State := ((opWrites i s).emit (opEvents i s)).setRet (opReturns i)

/-! ## The parts, case by case -/

theorem exists_eq_begin {i : Instr} (h : i.op = .begin) : ∃ cols rows font, i = .begin cols rows font := by
  cases i with
  | begin cols rows font => exact ⟨cols, rows, font, rfl⟩
  | _ => cases h

theorem opBreach_of_ne_begin {i : Instr} (hi : i.op ≠ .begin) (p : Phase) :
    opBreach i p = if p = .ready then none else some (.notReady i.op) := by
  cases i with
  | begin => exact absurd rfl hi
  | _ => rfl

theorem opBreach_begin_eq_none (cols rows : Byte) (font : Font) (p : Phase) :
    opBreach (.begin cols rows font) p = none ↔ p = .powerUnknown ∧ 1 ≤ rows.toNat ∧ rows.toNat ≤ 4 := by
  by_cases hp : p = .powerUnknown <;> simp [opBreach, hp]

theorem opEvents_of_ne_begin {i : Instr} (hi : i.op ≠ .begin) (s : State) :
    opEvents i s = wordEvents s.cfg (opWords i s) ++ opTail i s.cfg.timing := by
  cases i with
  | begin => exact absurd rfl hi
  | _ => rfl

@[simp] theorem opWrites_fault (i : Instr) (s : State) : (opWrites i s).fault = s.fault := by cases i <;> rfl
@[simp] theorem opWrites_cfg (i : Instr) (s : State) : (opWrites i s).cfg = s.cfg := by cases i <;> rfl
@[simp] theorem opWrites_trace (i : Instr) (s : State) : (opWrites i s).trace = s.trace := by cases i <;> rfl

theorem opResult_trace (i : Instr) (s : State) : (opResult i s).trace = s.trace ++ opEvents i s := by
  simp [opResult]

/-! ## Registers first, then events -/

@[simp] theorem State.setCtl_emit (s : State) (evs : List Event) (c : CtlFlags) :
    (s.emit evs).setCtl c = (s.setCtl c).emit evs := rfl
@[simp] theorem State.setEnt_emit (s : State) (evs : List Event) (e : EntFlags) :
    (s.emit evs).setEnt e = (s.setEnt e).emit evs := rfl
@[simp] theorem State.setPhase_emit (s : State) (evs : List Event) (p : Phase) :
    (s.emit evs).setPhase p = (s.setPhase p).emit evs := rfl

@[simp] theorem initRegisters_cfg (cols rows : Byte) (font : Font) (s : State) :
    (initRegisters cols rows font s).cfg = s.cfg := rfl
@[simp] theorem initRegisters_fault (cols rows : Byte) (font : Font) (s : State) :
    (initRegisters cols rows font s).fault = s.fault := rfl

/-! ## Sequences of sends -/

@[simp] theorem wordEvents_nil (cfg : Config) : wordEvents cfg [] = [] := rfl

@[simp] theorem wordEvents_cons (cfg : Config) (w : BusWord) (ws : List BusWord) :
    wordEvents cfg (w :: ws) = sendEvents cfg w.byte w.mode ++ wordEvents cfg ws := rfl

/-- Data bytes sent one after the other. -/
theorem perform_map_sendData (bs : List Byte) {s : State} (h : s.fault = none) :
    perform (bs.map sendData) s = s.emit (wordEvents s.cfg (bs.map (BusWord.mk .data))) := by
  induction bs generalizing s with
  | nil => simp
  | cons b bs ih =>
    have hs : (sendData b s).fault = none := by simp [sendData_eq b h, h]
    rw [List.map_cons, perform_cons h, ih hs, sendData_eq b h]
    simp

/-- Steps 2 and 3 of `begin` emit the stages from the forced width to the committed function set (41_initialization.md
R144 to R146). -/
theorem sendFn_forceWidth {s : State} (h : s.fault = none) :
    sendFn (forceWidth s) =
      s.emit ((forceStages s.cfg (encFn s.cfg.hdEnc s.fn)).flatMap Prod.snd) := by
  by_cases hbw : s.cfg.bw = 4
  · simp [forceWidth, hbw, force4, forceStages, rawNibble, rawByte, perform_cons, sendFn_eq, transmit_eq, h]
  · simp [forceWidth, hbw, force8, forceStages, rawByte, perform_cons, sendFn_eq, h]

theorem forceWidth_fault {s : State} (h : s.fault = none) : (forceWidth s).fault = none := by
  by_cases hbw : s.cfg.bw = 4
  · simp [forceWidth, hbw, force4, perform_cons, transmit_eq, h]
  · simp [forceWidth, hbw, force8, perform_cons, sendFn_eq, h]

theorem initDisplayOn_eq {s : State} (h : s.fault = none) :
    initDisplayOn s = (s.setCtl ctlAfterBegin).emit (sendEvents s.cfg (encCtl s.cfg.hdEnc ctlAfterBegin) .command) :=
  sendCtl_eq (s := ((s.setD true).setC false).setB false) h

theorem initClear_eq {s : State} (h : s.fault = none) :
    initClear s = s.emit (rawByte s.cfg s.cfg.hdEnc.clear [s.cfg.timing.tClear]) := by
  simp [initClear, perform_cons, sendInstr_eq, h, rawByte]

theorem initEntry_eq {s : State} (h : s.fault = none) :
    initEntry s = (s.setEnt entAfterBegin).emit (sendEvents s.cfg (encEnt s.cfg.hdEnc entAfterBegin) .command) :=
  sendEnt_eq (s := (s.setID true).setSH false) h

/-! ## `exec` in closed form -/

/-- While the fault register is set no operation has a step (60_exceptions.md R221). -/
theorem exec_of_fault (i : Instr) {s : State} {code : FaultCode} (h : s.fault = some code) :
    exec i s = .fault (.blockFaulted code) := by
  cases i with
  | begin => simp only [exec, execBegin, inPhase_of_fault h]
  | _ => exact inPhase_of_fault h _ _ _

/-- Every operation but `begin` is a list of actions behind the check for `Ready`; together they write `opWrites` and
emit `opEvents`. -/
theorem exec_eq_whenReady {i : Instr} (hi : i.op ≠ .begin) :
    ∃ acts, exec i = whenReady i.op (complete (opReturns i) acts) ∧
      ∀ s : State, s.fault = none → perform acts s = (opWrites i s).emit (opEvents i s) := by
  cases i with
  | begin => exact absurd rfl hi
  | createChar location glyph =>
    refine ⟨_, rfl, fun s h => ?_⟩
    have hs : (sendInstr (fun e => cgramByte e location) s).fault = none := by simp [sendInstr_eq, h]
    rw [perform_cons h, perform_map_sendData _ hs, sendInstr_eq _ h]
    simp [opWrites, opEvents, opWords, opTail, Instr.op]
  | _ =>
    refine ⟨_, rfl, fun s h => ?_⟩
    simp [perform_cons, sendInstr_eq, sendCmd_eq, sendData_eq, sendCtl_eq, sendEnt_eq, h, opWrites, opEvents, opWords,
      opTail, Instr.op]

/-- The nine actions of `begin` on a block without a fault (41_initialization.md R140 to R150). -/
theorem perform_begin (cols rows : Byte) (font : Font) {s : State} (h : s.fault = none) :
    perform [initRegisters cols rows font, initPins, delay Timing.tPowerOn, forceWidth, sendFn,
        initDisplayOn, initClear, initEntry, becomeReady] s =
      (opWrites (.begin cols rows font) s).emit (opEvents (.begin cols rows font) s) := by
  simp [perform_cons, initPins, becomeReady, forceWidth_fault, sendFn_forceWidth, initDisplayOn_eq, initClear_eq,
    initEntry_eq, h, opWrites, opEvents, beginEvents, beginStages, rawByte]

/-- An operation that breaks its contract raises the fault and does nothing else (60_exceptions.md R221, R223). -/
theorem exec_of_breach {i : Instr} {s : State} {code : FaultCode} (h : s.fault = none)
    (hb : opBreach i s.phase = some code) : exec i s = .next (raise code s) := by
  by_cases hi : i.op = .begin
  · obtain ⟨cols, rows, font, rfl⟩ := exists_eq_begin hi
    by_cases hp : s.phase = .powerUnknown
    · by_cases hr : 1 ≤ rows.toNat ∧ rows.toNat ≤ 4
      · simp only [opBreach, hp, hr, and_self, if_true, reduceCtorEq] at hb
      · simp only [opBreach, hp, hr, if_true, if_false, Option.some.injEq] at hb
        simp only [exec, execBegin, inPhase_of_phase h hp, hr, if_false, hb]
    · simp only [opBreach, hp, if_false, Option.some.injEq] at hb
      simp only [exec, execBegin, inPhase_of_ne h hp, hb]
  · obtain ⟨acts, he, -⟩ := exec_eq_whenReady hi
    by_cases hp : s.phase = .ready
    · simp only [opBreach_of_ne_begin hi, hp, if_true, reduceCtorEq] at hb
    · simp only [opBreach_of_ne_begin hi, hp, if_false, Option.some.injEq] at hb
      rw [he, whenReady, inPhase_of_ne h hp, hb]

/-- Actions that write `opWrites` and emit `opEvents` complete with `opResult`. -/
theorem complete_eq_opResult {i : Instr} {s : State} (h : s.fault = none) {acts : List (State → State)}
    (hacts : perform acts s = (opWrites i s).emit (opEvents i s)) :
    complete (opReturns i) acts s = .next (opResult i s) := by
  rw [complete_eq (by simp [hacts, h]), hacts, opResult]

/-- An operation that meets its contract completes with `opResult`. -/
theorem exec_completes {i : Instr} {s : State} (h : s.fault = none) (hb : opBreach i s.phase = none) :
    exec i s = .next (opResult i s) := by
  by_cases hi : i.op = .begin
  · obtain ⟨cols, rows, font, rfl⟩ := exists_eq_begin hi
    obtain ⟨hp, hr⟩ := (opBreach_begin_eq_none ..).1 hb
    simp only [exec, execBegin, inPhase_of_phase h hp, hr, and_self, if_true]
    exact complete_eq_opResult h (perform_begin cols rows font h)
  · obtain ⟨acts, he, hacts⟩ := exec_eq_whenReady hi
    have hp : s.phase = .ready := by simpa [opBreach_of_ne_begin hi] using hb
    rw [he, whenReady_of_ready h hp, complete_eq_opResult h (hacts s h)]

/-- Every operation but `begin` completes in every ready state. -/
theorem exec_of_ready {i : Instr} (hi : i.op ≠ .begin) {s : State} (h : s.isReady) :
    exec i s = .next (opResult i s) :=
  exec_completes h.1 (by rw [opBreach_of_ne_begin hi, if_pos h.2])

/-- An operation of one bus word and no delay of its own, in a ready state (30_encoding.md R89). -/
theorem exec_of_ready_of_word {i : Instr} {s : State} {w : BusWord} (h : s.isReady) (hi : i.op ≠ .begin)
    (hw : opWords i s = [w]) (htail : opTail i s.cfg.timing = []) :
    exec i s = .next (((opWrites i s).emit (sendEvents s.cfg w.byte w.mode)).setRet (opReturns i)) := by
  rw [exec_of_ready hi h, opResult, opEvents_of_ne_begin hi, hw, htail]
  simp

/-- An operation that writes `ctl` and sends its byte, in a ready state. -/
theorem exec_of_writes_ctl {i : Instr} {s : State} {c : CtlFlags} (h : s.isReady) (hi : i.op ≠ .begin)
    (hctl : opWrites i s = s.setCtl c) (hw : opWords i s = [⟨.command, encCtl s.cfg.hdEnc c⟩])
    (htail : opTail i s.cfg.timing = []) (hret : opReturns i = none) :
    exec i s =
      .next { s with ctl := c, trace := s.trace ++ sendEvents s.cfg (encCtl s.cfg.hdEnc c) .command, ret := none } := by
  rw [exec_of_ready_of_word h hi hw htail, hctl, hret]
  rfl

/-- An operation that writes `ent` and sends its byte, in a ready state. -/
theorem exec_of_writes_ent {i : Instr} {s : State} {e : EntFlags} (h : s.isReady) (hi : i.op ≠ .begin)
    (hent : opWrites i s = s.setEnt e) (hw : opWords i s = [⟨.command, encEnt s.cfg.hdEnc e⟩])
    (htail : opTail i s.cfg.timing = []) (hret : opReturns i = none) :
    exec i s =
      .next { s with ent := e, trace := s.trace ++ sendEvents s.cfg (encEnt s.cfg.hdEnc e) .command, ret := none } := by
  rw [exec_of_ready_of_word h hi hw htail, hent, hret]
  rfl

/-- Everything an operation can do when it answers a next state: raise a fault, or complete. -/
theorem exec_next {i : Instr} {s t : State} (h : exec i s = .next t) :
    s.fault = none ∧ ((∃ code, opBreach i s.phase = some code ∧ t = raise code s) ∨
      (opBreach i s.phase = none ∧ t = opResult i s)) := by
  cases hf : s.fault with
  | some code => rw [exec_of_fault i hf] at h; cases h
  | none =>
    cases hb : opBreach i s.phase with
    | some code => rw [exec_of_breach hf hb] at h; cases h; exact ⟨rfl, .inl ⟨code, rfl, rfl⟩⟩
    | none => rw [exec_completes hf hb] at h; cases h; exact ⟨rfl, .inr ⟨rfl, rfl⟩⟩

/-- An operation stops with a fault only where the fault register is set. -/
theorem exec_fault {i : Instr} {s : State} {f : Fault} (h : exec i s = .fault f) :
    ∃ code, s.fault = some code ∧ f = .blockFaulted code := by
  cases hf : s.fault with
  | some code => rw [exec_of_fault i hf] at h; cases h; exact ⟨code, rfl, rfl⟩
  | none =>
    cases hb : opBreach i s.phase with
    | some code => rw [exec_of_breach hf hb] at h; cases h
    | none => rw [exec_completes hf hb] at h; cases h

/-- An operation that ends without a fault has completed. -/
theorem exec_next_of_no_fault {i : Instr} {s t : State} (h : exec i s = .next t) (ht : t.fault = none) :
    t = opResult i s := by
  obtain ⟨-, ⟨code, -, rfl⟩ | ⟨-, rfl⟩⟩ := exec_next h
  · cases ht
  · rfl

/-! ## Which operation writes which register -/

/-- Of all operations, those of the display-control family and `begin` alone write `ctl` (10_state.md R29). -/
theorem opWrites_ctl {i : Instr} (s : State)
    (hi : i.op ∉ [OpName.begin, .display, .noDisplay, .cursor, .noCursor, .blink, .noBlink]) :
    (opWrites i s).ctl = s.ctl := by
  cases i with
  | begin | display | noDisplay | cursor | noCursor | blink | noBlink => exact absurd (by simp [Instr.op]) hi
  | _ => rfl

/-- Of all operations, those of the entry-mode family and `begin` alone write `ent` (10_state.md R30). -/
theorem opWrites_ent {i : Instr} (s : State)
    (hi : i.op ∉ [OpName.begin, .leftToRight, .rightToLeft, .autoscroll, .noAutoscroll]) :
    (opWrites i s).ent = s.ent := by
  cases i with
  | begin | leftToRight | rightToLeft | autoscroll | noAutoscroll => exact absurd (by simp [Instr.op]) hi
  | _ => rfl

/-- `begin` alone writes the phase (10_state.md R26). -/
theorem opWrites_phase {i : Instr} (hi : i.op ≠ .begin) (s : State) : (opWrites i s).phase = s.phase := by
  cases i with
  | begin => exact absurd rfl hi
  | _ => rfl

/-! ## A written flag group is sent -/

/-- Steps 2 and 3 of `begin` end with the function-set byte (41_initialization.md R146). -/
theorem fn_suffix_forceStages (cfg : Config) (b : Byte) :
    sendEvents cfg b .command <:+ (forceStages cfg b).flatMap Prod.snd := by
  by_cases hbw : cfg.bw = 4
  · exact ⟨List.flatten [rawNibble cfg 0x03 [cfg.timing.tInitLong], rawNibble cfg 0x03 [cfg.timing.tInitLong],
      rawNibble cfg 0x03 [cfg.timing.tInitShort], rawNibble cfg 0x02 []], by simp [forceStages, hbw, rawByte]⟩
  · exact ⟨List.flatten [rawByte cfg b [cfg.timing.tInitLong], rawByte cfg b [cfg.timing.tInitShort],
      rawByte cfg b []], by simp [forceStages, hbw, rawByte]⟩

/-- The events of `begin` in one row: pins and power-on delay, steps 2 and 3, then the display-control, clear and
entry-mode bytes (41_initialization.md R140). -/
theorem beginEvents_eq (cfg : Config) (b : Byte) :
    beginEvents cfg b = initPinsEvents cfg ++ [.delay cfg.timing.tPowerOn] ++
      (forceStages cfg b).flatMap Prod.snd ++ sendEvents cfg (encCtl cfg.hdEnc ctlAfterBegin) .command ++
      rawByte cfg cfg.hdEnc.clear [cfg.timing.tClear] ++
      sendEvents cfg (encEnt cfg.hdEnc entAfterBegin) .command := by
  simp [beginEvents, beginStages, rawByte]

theorem fn_infix_beginEvents (cfg : Config) (b : Byte) : sendEvents cfg b .command <:+: beginEvents cfg b := by
  rw [beginEvents_eq]
  exact (((fn_suffix_forceStages cfg b).isInfix.trans (List.suffix_append _ _).isInfix).trans
    (List.prefix_append _ _).isInfix).trans
    ((List.prefix_append _ _).isInfix.trans (List.prefix_append _ _).isInfix)

theorem ctl_infix_beginEvents (cfg : Config) (b : Byte) :
    sendEvents cfg (encCtl cfg.hdEnc ctlAfterBegin) .command <:+: beginEvents cfg b := by
  rw [beginEvents_eq, List.append_assoc _ (rawByte ..)]
  exact List.infix_append _ _ _

theorem ent_infix_beginEvents (cfg : Config) (b : Byte) :
    sendEvents cfg (encEnt cfg.hdEnc entAfterBegin) .command <:+: beginEvents cfg b := by
  rw [beginEvents_eq]
  exact (List.suffix_append _ _).isInfix

/-- An operation that changes `fn` sends its byte. -/
theorem fn_infix_opEvents {i : Instr} {s : State} (h : (opWrites i s).fn ≠ s.fn) :
    sendEvents s.cfg (encFn s.cfg.hdEnc (opWrites i s).fn) .command <:+: opEvents i s := by
  cases i with
  | begin => exact fn_infix_beginEvents _ _
  | _ => exact absurd rfl h

/-- An operation that changes `ctl` sends its byte. -/
theorem ctl_infix_opEvents {i : Instr} {s : State} (h : (opWrites i s).ctl ≠ s.ctl) :
    sendEvents s.cfg (encCtl s.cfg.hdEnc (opWrites i s).ctl) .command <:+: opEvents i s := by
  cases i with
  | begin => exact ctl_infix_beginEvents _ _
  | display | noDisplay | cursor | noCursor | blink | noBlink =>
    simp [opWrites, opEvents, opWords, opTail, Instr.op]
  | _ => exact absurd rfl h

/-- An operation that changes `ent` sends its byte. -/
theorem ent_infix_opEvents {i : Instr} {s : State} (h : (opWrites i s).ent ≠ s.ent) :
    sendEvents s.cfg (encEnt s.cfg.hdEnc (opWrites i s).ent) .command <:+: opEvents i s := by
  cases i with
  | begin => exact ent_infix_beginEvents _ _
  | leftToRight | rightToLeft | autoscroll | noAutoscroll => simp [opWrites, opEvents, opWords, opTail, Instr.op]
  | _ => exact absurd rfl h

/-- What an operation emits somewhere stands somewhere behind the old trace. -/
theorem opResult_trace_of_infix {i : Instr} {s : State} {evs : List Event} (h : evs <:+: opEvents i s) :
    ∃ a z, (opResult i s).trace = s.trace ++ a ++ evs ++ z := by
  obtain ⟨a, z, h⟩ := h
  exact ⟨a, z, by simp [opResult_trace, ← h]⟩

/-! ## What an instruction byte says of its fields -/

/-- `flagAt` is one bit of a byte, or none. -/
theorem getLsbD_flagAt (b : Bool) (n : Nat) {k : Nat} (hk : k < 8) :
    (flagAt b n).getLsbD k = (b && decide (k = n)) := by
  cases b with
  | false => simp [flagAt]
  | true => simp [flagAt, ← BitVec.twoPow_eq, hk, eq_comm]

/-- The three fields are read off the display-control byte at their places. -/
theorem encCtl_getLsbD {e : HdEnc} (h : ctlBitsApart e) (c : CtlFlags) :
    (encCtl e c).getLsbD e.bitD = c.D.read ∧ (encCtl e c).getLsbD e.bitC = c.C.read ∧
      (encCtl e c).getLsbD e.bitB = c.B.read := by
  obtain ⟨hD, hC, hB, hnd, hop⟩ := h
  obtain ⟨⟨hDC, hDB⟩, hCB⟩ : (e.bitD ≠ e.bitC ∧ e.bitD ≠ e.bitB) ∧ e.bitC ≠ e.bitB := by simpa using hnd
  simp only [encCtl, BitVec.getLsbD_or, getLsbD_flagAt _ _ hD, getLsbD_flagAt _ _ hC, getLsbD_flagAt _ _ hB,
    hop e.bitD (by simp), hop e.bitC (by simp), hop e.bitB (by simp)]
  simp [hDC, hDB, hCB, hDC.symm, hDB.symm, hCB.symm]

/-- The two fields are read off the entry-mode byte at their places. -/
theorem encEnt_getLsbD {e : HdEnc} (h : entBitsApart e) (g : EntFlags) :
    (encEnt e g).getLsbD e.bitID = g.ID.read ∧ (encEnt e g).getLsbD e.bitSH = g.SH.read := by
  obtain ⟨hID, hSH, hnd, hop⟩ := h
  have hIS : e.bitID ≠ e.bitSH := by simpa using hnd
  simp only [encEnt, BitVec.getLsbD_or, getLsbD_flagAt _ _ hID, getLsbD_flagAt _ _ hSH, hop e.bitID (by simp),
    hop e.bitSH (by simp)]
  simp [hIS, hIS.symm]

/-! ## Fields no operation reads -/

/-- Two states alike in fault and phase take the same way through an operation; what the two then do is alike as far as
`view` tells, if it is so for a raised fault and for a result. -/
theorem mapNext_exec_congr (view : State → State) {i : Instr} {s s' : State} (hfault : s'.fault = s.fault)
    (hphase : s'.phase = s.phase) (hraise : ∀ code, view (raise code s') = view (raise code s))
    (hresult : view (opResult i s') = view (opResult i s)) :
    mapNext view (exec i s') = mapNext view (exec i s) := by
  cases hf : s.fault with
  | some code => rw [exec_of_fault i hf, exec_of_fault i (hfault.trans hf)]
  | none =>
    cases hb : opBreach i s.phase with
    | some code =>
      rw [exec_of_breach hf hb, exec_of_breach (hfault.trans hf) (hphase ▸ hb)]
      exact congrArg Host.Outcome.next (hraise code)
    | none =>
      rw [exec_completes hf hb, exec_completes (hfault.trans hf) (hphase ▸ hb)]
      exact congrArg Host.Outcome.next hresult

theorem opEvents_of_trace (i : Instr) (s : State) (other : List Event) :
    opEvents i { s with trace := other } = opEvents i s := by
  cases i <;> rfl

theorem opWrites_of_trace (i : Instr) (s : State) (other : List Event) :
    opWrites i { s with trace := other } = { opWrites i s with trace := other } := by
  cases i <;> rfl

/-- From another trace an operation leaves the same state with the same events behind that trace. -/
theorem opResult_of_trace (i : Instr) (s : State) (other : List Event) :
    opResult i { s with trace := other } = { opResult i s with trace := other ++ opEvents i s } := by
  rw [opResult, opResult, opEvents_of_trace, opWrites_of_trace]
  rfl

theorem opEvents_of_numCols (i : Instr) (s : State) (x : Reg Byte) :
    opEvents i { s with numCols := x } = opEvents i s := by
  cases i <;> rfl

theorem opWrites_of_numCols (i : Instr) (s : State) (x y : Reg Byte) :
    { opWrites i { s with numCols := x } with numCols := y } = { opWrites i s with numCols := y } := by
  cases i <;> rfl

/-- With another `numCols` an operation leaves the same state but for that field. -/
theorem opResult_of_numCols (i : Instr) (s : State) (x y : Reg Byte) :
    { opResult i { s with numCols := x } with numCols := y } = { opResult i s with numCols := y } := by
  rw [opResult, opResult, opEvents_of_numCols]
  exact congrArg (fun t => (State.emit t (opEvents i s)).setRet (opReturns i)) (opWrites_of_numCols i s x y)

/-! ## The obligations -/

/-- Settles O37: a raised fault appends nothing, a result appends `opEvents`, and no part of either depends on the
trace. -/
theorem traceIsAppendOnlyAndUnread : Obligations.TraceIsAppendOnlyAndUnread := by
  refine ⟨fun cfg => rfl, fun i s t h => ?_, fun i s f other h => ?_⟩
  · obtain ⟨hf, ⟨code, hb, rfl⟩ | ⟨hb, rfl⟩⟩ := exec_next h
    · refine ⟨[], by simp, fun other => ?_⟩
      rw [exec_of_breach (s := { s with trace := other }) hf hb, List.append_nil]
      rfl
    · refine ⟨opEvents i s, opResult_trace i s, fun other => ?_⟩
      rw [exec_completes (s := { s with trace := other }) hf hb, opResult_of_trace]
  · obtain ⟨code, hf, rfl⟩ := exec_fault h
    exact exec_of_fault i hf

/-- Settles O38: `begin` writes the field, and the closed form of `exec` does not depend on it. -/
theorem numColsIsSetAndNeverRead : Obligations.NumColsIsSetAndNeverRead := by
  refine ⟨fun cols rows font s t h ht => ?_, fun i s x y => ?_⟩
  · rw [exec_next_of_no_fault h ht]
    rfl
  · exact mapNext_exec_congr _ rfl rfl (fun _ => rfl) (opResult_of_numCols i s x y)

/-- Settles O41: `begin` alone writes the phase, and writes `Ready`; a raised fault leaves it. -/
theorem phaseGoesFromPowerUnknownToReady : Obligations.PhaseGoesFromPowerUnknownToReady := by
  have keeps {i : Instr} {s t : State} (h : exec i s = .next t) (hi : i.op ≠ .begin) : t.phase = s.phase := by
    obtain ⟨-, ⟨code, -, rfl⟩ | ⟨-, rfl⟩⟩ := exec_next h
    · rfl
    · exact opWrites_phase hi s
  refine ⟨fun cfg => rfl, fun cols rows font s t h ht => ?_, fun i s t h hp => ?_, fun i s t => keeps, fun cfg b => ?_⟩
  · rw [exec_next_of_no_fault h ht]
    rfl
  · by_cases hi : i.op = .begin
    · obtain ⟨cols, rows, font, rfl⟩ := exists_eq_begin hi
      obtain ⟨-, ⟨code, -, rfl⟩ | ⟨-, rfl⟩⟩ := exec_next h
      · exact hp
      · rfl
    · exact (keeps h hi).trans hp
  · by_cases hbw : cfg.bw = 4 <;> simp [beginStages, forceStages, hbw]

/-- Settles O40: a raised fault changes no group, and a result sends the byte of each group it changes. -/
theorem changedGroupIsRetransmitted : Obligations.ChangedGroupIsRetransmitted := by
  intro i s t h
  obtain ⟨-, ⟨code, -, rfl⟩ | ⟨-, rfl⟩⟩ := exec_next h
  · exact ⟨absurd rfl, absurd rfl, absurd rfl⟩
  · exact ⟨fun hc => opResult_trace_of_infix (fn_infix_opEvents hc),
      fun hc => opResult_trace_of_infix (ctl_infix_opEvents hc),
      fun hc => opResult_trace_of_infix (ent_infix_opEvents hc)⟩

/-- Settles O20: the six operations by `exec_of_writes_ctl`, `begin` by the place of the byte in `beginEvents`, the fields
by the bits of the byte they are read off at, the other operations by `opWrites_ctl`. -/
theorem displayControlGroup : Obligations.DisplayControlGroup := by
  refine ⟨fun s h => ?_, fun cols rows font s t h ht => ?_, fun e c c' he heq => ?_, fun i s t hi h => ?_⟩
  · intro result
    refine ⟨?_, ?_, ?_, ?_, ?_, ?_⟩ <;> exact exec_of_writes_ctl h (by decide) rfl rfl rfl rfl
  · rw [exec_next_of_no_fault h ht]
    exact ⟨rfl, opResult_trace_of_infix (ctl_infix_beginEvents _ _)⟩
  · obtain ⟨hD, hC, hB⟩ := encCtl_getLsbD he c
    obtain ⟨hD', hC', hB'⟩ := encCtl_getLsbD he c'
    rw [← heq] at hD' hC' hB'
    exact ⟨hD.symm.trans hD', hC.symm.trans hC', hB.symm.trans hB'⟩
  · obtain ⟨-, ⟨code, -, rfl⟩ | ⟨-, rfl⟩⟩ := exec_next h
    · rfl
    · exact opWrites_ctl s hi

/-- Settles O21, as O20: by `exec_of_writes_ent`, `beginEvents`, the bits of the byte and `opWrites_ent`. -/
theorem entryModeGroup : Obligations.EntryModeGroup := by
  refine ⟨fun s h => ?_, fun cols rows font s t h ht => ?_, fun e g g' he heq => ?_, fun i s t hi h => ?_⟩
  · intro result
    refine ⟨?_, ?_, ?_, ?_⟩ <;> exact exec_of_writes_ent h (by decide) rfl rfl rfl rfl
  · rw [exec_next_of_no_fault h ht]
    exact ⟨rfl, opResult_trace_of_infix (ent_infix_beginEvents _ _)⟩
  · obtain ⟨hID, hSH⟩ := encEnt_getLsbD he g
    obtain ⟨hID', hSH'⟩ := encEnt_getLsbD he g'
    rw [← heq] at hID' hSH'
    exact ⟨hID.symm.trans hID', hSH.symm.trans hSH'⟩
  · obtain ⟨-, ⟨code, -, rfl⟩ | ⟨-, rfl⟩⟩ := exec_next h
    · rfl
    · exact opWrites_ent s hi

end Sys2Proof.Machine

/-! # The transmission family: what a byte puts on the lines

One transmission and the bytes made of transmissions, in the forms the obligations of 40_transmission.md speak of. The
events of a byte and of `begin` are listed once, by where they come from: the pins, a delay of TIMING, or one
transmission at the block's width. -/

namespace Sys2Proof.Machine

/-! ## The splitter -/

/-- A byte is one 8-bit transmission, or its high nibble's and then its low nibble's (40_transmission.md R115). -/
theorem sendEvents_eq (cfg : Config) (v : Byte) (m : Mode) :
    sendEvents cfg v m =
      if cfg.bw = 8 then txEvents cfg v m 8
      else txEvents cfg (highNibble v) m 4 ++ txEvents cfg (lowNibble v) m 4 := by
  by_cases hbw : cfg.bw = 8 <;> simp [sendEvents, sendValues, hbw]

theorem highNibble_lt (v : Byte) : (highNibble v).toNat < 16 := by
  have hv := v.isLt
  simp only [highNibble, BitVec.toNat_ushiftRight, Nat.shiftRight_eq_div_pow]
  omega

theorem lowNibble_lt (v : Byte) : (lowNibble v).toNat < 16 := by
  rw [lowNibble, BitVec.toNat_and]
  exact Nat.and_lt_two_pow _ (n := 4) (by decide)

/-! ## Where an event of a byte or of `begin` comes from -/

/-- An event of one transmission at the block's width: 8 bits, or a nibble in a value below 16 (40_transmission.md
R116). -/
def Event.ofTransmission (cfg : Config) (m : Mode) (e : Event) : Prop :=
  ∃ v, (cfg.bw ≠ 8 → v.toNat < 16) ∧ e ∈ txEvents cfg v m (if cfg.bw = 8 then 8 else 4)

theorem Event.ofTransmission_of_nibble {cfg : Config} {m : Mode} {e : Event} {v : Byte} (hbw : cfg.bw ≠ 8)
    (hv : v.toNat < 16) (he : e ∈ txEvents cfg v m 4) : e.ofTransmission cfg m :=
  ⟨v, fun _ => hv, by rwa [if_neg hbw]⟩

/-- An event of a byte is one of its transmissions'. -/
theorem ofTransmission_of_mem_sendEvents {cfg : Config} {v : Byte} {m : Mode} {e : Event}
    (h : e ∈ sendEvents cfg v m) : e.ofTransmission cfg m := by
  rw [sendEvents_eq] at h
  by_cases hbw : cfg.bw = 8
  · rw [if_pos hbw] at h
    exact ⟨v, absurd hbw, by rwa [if_pos hbw]⟩
  · rw [if_neg hbw, List.mem_append] at h
    rcases h with h | h
    · exact Event.ofTransmission_of_nibble hbw (highNibble_lt v) h
    · exact Event.ofTransmission_of_nibble hbw (lowNibble_lt v) h

/-- An event that `begin` emits after the pins: one of a transmission at the block's width, or a delay of TIMING. -/
def Event.ofSequence (cfg : Config) (e : Event) : Prop :=
  e.ofTransmission cfg .command ∨ ∃ n ∈ timingFields cfg.timing, e = .delay n

theorem ofSequence_of_mem_rawNibble {cfg : Config} {v : Byte} {after : List Nat} (hbw : cfg.bw = 4)
    (hv : v.toNat < 16) (hafter : after ⊆ timingFields cfg.timing) {e : Event} (h : e ∈ rawNibble cfg v after) :
    e.ofSequence cfg := by
  rcases List.mem_append.1 h with h | h
  · exact .inl (Event.ofTransmission_of_nibble (by omega) hv h)
  · obtain ⟨n, hn, rfl⟩ := List.mem_map.1 h
    exact .inr ⟨n, hafter hn, rfl⟩

theorem ofSequence_of_mem_rawByte {cfg : Config} {v : Byte} {after : List Nat}
    (hafter : after ⊆ timingFields cfg.timing) {e : Event} (h : e ∈ rawByte cfg v after) : e.ofSequence cfg := by
  rcases List.mem_append.1 h with h | h
  · exact .inl (ofTransmission_of_mem_sendEvents h)
  · obtain ⟨n, hn, rfl⟩ := List.mem_map.1 h
    exact .inr ⟨n, hafter hn, rfl⟩

/-- Steps 2 and 3 of `begin`, raw nibbles or whole bytes (41_initialization.md R144 to R146). -/
theorem ofSequence_of_mem_forceStages {cfg : Config} {b : Byte} {e : Event}
    (h : e ∈ (forceStages cfg b).flatMap Prod.snd) : e.ofSequence cfg := by
  by_cases hbw : cfg.bw = 4
  · simp only [forceStages, hbw, if_true, List.flatMap_cons, List.flatMap_nil, List.flatten_cons, List.flatten_nil,
      List.append_nil, List.mem_append] at h
    rcases h with (h | h | h) | h | h
    iterate 4 · exact ofSequence_of_mem_rawNibble hbw (by decide) (by simp [timingFields]) h
    · exact ofSequence_of_mem_rawByte (by simp) h
  · simp only [forceStages, hbw, if_false, List.flatMap_cons, List.flatMap_nil, List.flatten_cons, List.flatten_nil,
      List.append_nil, List.mem_append] at h
    rcases h with h | h | h | h <;> exact ofSequence_of_mem_rawByte (by simp [timingFields]) h

/-- Everything `begin` emits: its pins, and then transmissions at the block's width and delays of TIMING. -/
theorem mem_beginEvents {cfg : Config} {b : Byte} {e : Event} (h : e ∈ beginEvents cfg b) :
    e ∈ initPinsEvents cfg ∨ e.ofSequence cfg := by
  simp only [beginEvents_eq, List.mem_append, List.mem_singleton] at h
  rcases h with ((((h | rfl) | h) | h) | h) | h
  · exact .inl h
  · exact .inr (.inr ⟨_, by simp [timingFields], rfl⟩)
  · exact .inr (ofSequence_of_mem_forceStages h)
  · exact .inr (.inl (ofTransmission_of_mem_sendEvents h))
  · exact .inr (ofSequence_of_mem_rawByte (by simp [timingFields]) h)
  · exact .inr (.inl (ofTransmission_of_mem_sendEvents h))

/-! ## Callback -/

theorem txEvents_callback {cfg : Config} {c : CallbackWiring} (hw : cfg.wiring = .callback c) (v : Byte) (m : Mode)
    (w : Nat) : txEvents cfg v m w = [.call v m w, .delay cfg.timing.tSettle] := by
  simp only [txEvents, hw, txCallback]

theorem initPinsEvents_callback {cfg : Config} {c : CallbackWiring} (hw : cfg.wiring = .callback c) :
    initPinsEvents cfg = [] := by
  simp only [initPinsEvents, hw]

/-- In 4-bit mode the value of a call is a nibble (40_transmission.md R109). -/
theorem call_lt_of_ofTransmission {cfg : Config} {c : CallbackWiring} (hw : cfg.wiring = .callback c)
    (hbw : cfg.bw ≠ 8) {x : Byte} {m m' : Mode} {w : Nat} (h : (Event.call x m' w).ofTransmission cfg m) :
    x.toNat < 16 := by
  obtain ⟨v, hv, hmem⟩ := h
  obtain ⟨rfl, -⟩ : x = v ∧ _ := by simpa [txEvents_callback hw] using hmem
  exact hv hbw

/-! ## The latch -/

/-- In a well-formed wiring a latch pin comes with an enable pin, and the two differ (10_state.md R22). -/
theorem exists_enPin_of_latch {c : ShiftRegWiring} {n : Nat} {l : Pin} (h : (Wiring.shiftReg c).wf n)
    (hl : c.latch = some l) : ∃ p, c.enPin = some p ∧ p ≠ l := by
  obtain ⟨-, -, hpins, -, hlatch, -⟩ := (Wiring.wf_shiftReg c n).1 h
  obtain ⟨p, hp⟩ := Option.isSome_iff_exists.1 (hlatch (by simp [hl]))
  refine ⟨p, hp, ?_⟩
  rintro rfl
  simp [Wiring.pins, hl, hp] at hpins

/-- A transmission with a latch and an enable pin: shift, latch pulse, enable pulse (40_transmission.md R105 to R107). -/
theorem txEvents_latched {cfg : Config} {c : ShiftRegWiring} {l p : Pin} (hw : cfg.wiring = .shiftReg c)
    (hl : c.latch = some l) (hp : c.enPin = some p) (v : Byte) (m : Mode) (w : Nat) :
    txEvents cfg v m w =
      [.shift c.sdata c.sclk (srWord c cfg.srWordBits v m w true), .write l .low, .write l .high] ++
        (pulseSrPin p cfg.timing ++ [.delay cfg.timing.tSettle]) := by
  simp [txEvents, hw, txShiftReg, hl, hp]

/-- Each transmission drives the latch once to each level (40_transmission.md R106). -/
theorem count_latch_txEvents {cfg : Config} {c : ShiftRegWiring} {l p : Pin} (hw : cfg.wiring = .shiftReg c)
    (hl : c.latch = some l) (hp : c.enPin = some p) (hpl : p ≠ l) (v : Byte) (m : Mode) (w : Nat) (x : Level) :
    (txEvents cfg v m w).count (.write l x) = 1 := by
  rw [txEvents_latched hw hl hp]
  cases x <;> simp [pulseSrPin, hpl]

/-- A byte in 4-bit mode drives the latch twice to each level. -/
theorem count_latch_sendEvents {cfg : Config} {c : ShiftRegWiring} {l p : Pin} (hw : cfg.wiring = .shiftReg c)
    (hl : c.latch = some l) (hp : c.enPin = some p) (hpl : p ≠ l) (hbw : cfg.bw ≠ 8) (v : Byte) (m : Mode)
    (x : Level) : (sendEvents cfg v m).count (.write l x) = 2 := by
  rw [sendEvents_eq, if_neg hbw, List.count_append, count_latch_txEvents hw hl hp hpl,
    count_latch_txEvents hw hl hp hpl]

/-! ## The obligations -/

/-- Settles O28: the transmission by its two events, the values in 4-bit mode by where a call of a byte or of `begin`
comes from. -/
theorem callbackTransmission : Obligations.CallbackTransmission := by
  intro c v m w s hw
  refine ⟨fun h48 => ?_, fun h4 x fnByte m' w' h => ?_⟩
  · rw [transmit_eq v m h48, txEvents_callback hw]
    rfl
  · have hbw : s.cfg.bw ≠ 8 := by simp [Config.bw, hw, Wiring.bw, h4]
    rcases h with h | h
    · exact call_lt_of_ofTransmission hw hbw (ofTransmission_of_mem_sendEvents h)
    · rcases mem_beginEvents h with h | h | ⟨n, -, h⟩
      · simp [initPinsEvents_callback hw] at h
      · exact call_lt_of_ofTransmission hw hbw h
      · cases h

/-- Settles O31: after the latch pulse come the enable pulse, on another pin, and a delay. -/
theorem latchPulsesOncePerTransmission : Obligations.LatchPulsesOncePerTransmission := by
  intro cfg c l v m hwf hw hl
  obtain ⟨p, hp, hpl⟩ := exists_enPin_of_latch (hw ▸ hwf.1) hl
  refine ⟨⟨_, _, txEvents_latched hw hl hp v m cfg.bw, fun x => ?_, fun a b n => ?_⟩, fun h4 => ?_⟩
  · simp [pulseSrPin, hpl.symm]
  · simp [pulseSrPin]
  · have hbw : cfg.bw ≠ 8 := by omega
    exact ⟨count_latch_sendEvents hw hl hp hpl hbw v m .low, count_latch_sendEvents hw hl hp hpl hbw v m .high⟩

/-- Settles O25: `send` appends the events of the byte, and those split by the width. -/
theorem sendSplitsTheByte : Obligations.SendSplitsTheByte := by
  intro v m s h
  rw [send_eq v m h, sendEvents_eq]
  rfl

end Sys2Proof.Machine

/-! # The encoding and construction family

The byte form of a request, the words an operation sends against the opcode table, the instruction bytes, the shift word
bit by bit, and which configurations a block is constructed with. -/

namespace Sys2Proof.Machine

/-! ## Requests -/

/-- The word a request carries fits the row it is filed under (`Laws.TableWord`, one operation each). -/
theorem rowWord_fits (i : Instr) : i.op.tableRow.fits i.rowWord = true := by
  cases i with
  | begin cols rows font => exact Laws.TableWord.begin cols rows font
  | setCursor col row => exact Laws.TableWord.setCursor col row
  | createChar location glyph => exact Laws.TableWord.createChar location glyph
  | write value => exact Laws.TableWord.write value
  | command value => exact Laws.TableWord.command value
  | _ => rfl

theorem setWidth_bus9 (rs : Bool) (b : Byte) : (bus9 rs b).setWidth 8 = b := by
  exact BitVec.setWidth_append_eq_right

/-- Bit 8 of a bus word is RS (30_encoding.md R80). -/
theorem getLsbD_bus9 (rs : Bool) (b : Byte) : (bus9 rs b).getLsbD 8 = rs := by
  rw [bus9, BitVec.getLsbD_append]
  simp

/-- The operands of an operation are read back off its word and its operand bytes. -/
theorem decodeOperands_operandBytes (i : Instr) (rest : List Byte) :
    decodeOperands i.op (i.rowWord.setWidth 8) (i.operandBytes ++ rest) = .ok (i, rest) := by
  cases i with
  | begin cols rows font => cases font <;> rfl
  | write value | command value => simp only [Instr.op, Instr.rowWord, setWidth_bus9]; rfl
  | _ => rfl

/-! ## Sent words against the opcode table -/

/-- The six display-control rows of the opcode table each say one field of the byte. -/
theorem ctlWord_fits (c : CtlFlags) :
    let w := bus9 false (encCtl HdEnc.standard c)
    OpName.display.tableRow.fits w = c.D.read ∧ OpName.noDisplay.tableRow.fits w = !c.D.read ∧
    OpName.cursor.tableRow.fits w = c.C.read ∧ OpName.noCursor.tableRow.fits w = !c.C.read ∧
    OpName.blink.tableRow.fits w = c.B.read ∧ OpName.noBlink.tableRow.fits w = !c.B.read := by
  unfold encCtl
  generalize c.D.read = d, c.C.read = c, c.B.read = b
  revert d c b
  decide

/-- The four entry-mode rows of the opcode table each say one field of the byte. -/
theorem entWord_fits (g : EntFlags) :
    let w := bus9 false (encEnt HdEnc.standard g)
    OpName.leftToRight.tableRow.fits w = g.ID.read ∧ OpName.rightToLeft.tableRow.fits w = !g.ID.read ∧
    OpName.autoscroll.tableRow.fits w = g.SH.read ∧ OpName.noAutoscroll.tableRow.fits w = !g.SH.read := by
  unfold encEnt
  generalize g.ID.read = i, g.SH.read = s
  revert i s
  decide

theorem fnWord_fits (f : FnFlags) : OpName.begin.tableRow.fits (bus9 false (encFn HdEnc.standard f)) = true := by
  unfold encFn
  generalize f.DL = d, f.N.read = n, f.F.read = f
  revert d n f
  decide

/-- Whatever the address, a DDRAM byte has bit 7 set. -/
theorem ddramWord_fits (col : Byte) (r : Nat) :
    OpName.setCursor.tableRow.fits (bus9 false (ddramByte HdEnc.standard col r)) = true := by
  have h : ∀ a : Byte, OpName.setCursor.tableRow.fits (bus9 false (HdEnc.standard.ddaddr ||| a)) = true := by
    decide +kernel
  exact h _

/-- The first word an operation sends fits its row. -/
theorem head_opWords_fits (i : Instr) {s : State} (hs : s.cfg.hdEnc = HdEnc.standard) :
    ∀ w ∈ (opWords i s).head?, i.op.tableRow.fits w.bits = true := by
  have hctl := fun c => ctlWord_fits c
  have hent := fun g => entWord_fits g
  cases i with
  | begin => simp [opWords]
  | createChar location glyph =>
    simp only [opWords, hs, List.head?_cons, Option.mem_some, forall_eq']
    exact Laws.TableWord.createChar_word location
  | setCursor col row =>
    simp only [opWords, hs, List.head?_cons, Option.mem_some, forall_eq']
    exact ddramWord_fits _ _
  | write value =>
    simp only [opWords, List.head?_cons, Option.mem_some, forall_eq']
    exact Laws.TableWord.write_word value
  | command value =>
    simp only [opWords, List.head?_cons, Option.mem_some, forall_eq']
    exact Laws.TableWord.command_word value
  | display | noDisplay | cursor | noCursor | blink | noBlink =>
    simp [opWords, hs, BusWord.bits, Instr.op, hctl]
  | leftToRight | rightToLeft | autoscroll | noAutoscroll =>
    simp [opWords, hs, BusWord.bits, Instr.op, hent]
  | clear | home | scrollDisplayLeft | scrollDisplayRight => simp only [opWords, hs]; decide

/-- Further words are data words: the glyph rows of `createChar`. -/
theorem tail_opWords_data (i : Instr) (s : State) : ∀ w ∈ (opWords i s).tail, w.mode = .data := by
  cases i with
  | createChar location glyph => simp [opWords]
  | _ => simp [opWords]

/-! ## Construction -/

theorem construct_eq_next {cfg : Config} {s : State} :
    construct cfg = .next s ↔ cfg.wf ∧ s = State.constructed cfg := by
  unfold construct
  split
  next hp => simp [Config.wf, Wiring.wf, hp]
  next hp =>
    have hwf : cfg.wf ↔ cfg.timing.wf := and_iff_right hp
    rw [hwf]
    split
    next ht => exact ⟨fun h => ⟨ht, by cases h; rfl⟩, fun h => by rw [h.2]⟩
    next ht => exact ⟨nofun, fun h => absurd h.1 ht⟩

theorem exists_construct_eq_next (cfg : Config) : (∃ s, construct cfg = .next s) ↔ cfg.wf := by
  simp [construct_eq_next]

/-- The reason a construction is refused with is one of the wiring's problems. -/
theorem mem_problems_of_refused {cfg : Config} {r : CfgReason} (h : construct cfg = .refused (.cfgInvalid r)) :
    r ∈ cfg.wiring.problems cfg.srWordBits := by
  unfold construct at h
  split at h
  next hp => cases h; simp [hp]
  next hp => split at h <;> cases h

/-- What is not well-formed is refused. -/
theorem exists_refused_of_not_wf {cfg : Config} (h : ¬ cfg.wf) : ∃ r, construct cfg = .refused r := by
  unfold construct
  split
  next => exact ⟨_, rfl⟩
  next hp => exact ⟨_, if_neg fun ht => h ⟨hp, ht⟩⟩

/-- The pins of a Direct wiring, told apart pair by pair (10_state.md R21). -/
theorem nodup_pins_direct (c : DirectWiring) :
    (Wiring.direct c).pins.Nodup ↔ c.data.Nodup ∧ c.rs ≠ c.en ∧ c.rs ∉ c.data ∧ c.en ∉ c.data ∧
      ∀ p, c.rw = some p → p ≠ c.rs ∧ p ≠ c.en ∧ p ∉ c.data := by
  cases hrw : c.rw with
  | none => simp [Wiring.pins, hrw]; tauto
  | some q => simp [Wiring.pins, hrw]; tauto

/-- The pins of a Shift-Register wiring, told apart pair by pair (10_state.md R22). -/
theorem nodup_pins_shiftReg (c : ShiftRegWiring) :
    (Wiring.shiftReg c).pins.Nodup ↔ c.sdata ≠ c.sclk ∧
      (∀ p, c.latch = some p ∨ c.enPin = some p → p ≠ c.sdata ∧ p ≠ c.sclk) ∧
      ∀ p, c.latch = some p → c.enPin ≠ some p := by
  cases hl : c.latch <;> cases hp : c.enPin <;> simp [Wiring.pins, hl, hp] <;> grind

/-- Distinct positions below `n` are at most `n` (the count behind 95_test_vectors.md F11). -/
theorem length_positions_le {c : ShiftRegWiring} {n : Nat} (h : (Wiring.shiftReg c).wf n) : c.positions.length ≤ n := by
  obtain ⟨-, -, -, -, -, hlt, hnd⟩ := (Wiring.wf_shiftReg c n).1 h
  simpa using (hnd.subperm fun p hp => List.mem_range.2 (hlt p hp)).length_le

/-! ## The obligations -/

/-- Settles O1: the word of a request fits its row, so the row's operands are read, and they are the operation's. -/
theorem decodeOfEncode : Obligations.DecodeOfEncode := fun i rest =>
  (decode_filed i.op i.rowWord (i.operandBytes ++ rest) (rowWord_fits i)).trans (decodeOperands_operandBytes i rest)

/-- Settles O2: the decoder run on each word. -/
theorem tableWordsDecode : Obligations.TableWordsDecode := by
  refine ⟨?_, ?_, ?_, ?_, ?_, ?_, ?_, ?_, ?_, ?_, ?_, ?_, ?_⟩ <;> rfl

/-- Settles O3: by the rows of the first words and the mode of the others. -/
theorem sentWordFitsTableRow : Obligations.SentWordFitsTableRow := by
  refine ⟨fun i s w ws hs hw => ⟨?_, fun x hx => ?_⟩, fnWord_fits⟩
  · exact head_opWords_fits i hs w (by simp [hw])
  · have hdata : x.mode = .data := tail_opWords_data i s x (by simpa [hw] using hx)
    rw [BusWord.bits, getLsbD_bus9, hdata]
    rfl

/-- Settles O4: the fields are bits, so each byte is one of at most eight. -/
theorem instructionBytes : Obligations.InstructionBytes := by
  refine ⟨fun c => ?_, fun g => ?_, fun f => ?_, by decide, by decide, rfl, rfl⟩
  · unfold encCtl
    generalize c.D.read = d, c.C.read = c, c.B.read = b
    revert d c b
    decide
  · unfold encEnt
    generalize g.ID.read = i, g.SH.read = s
    revert i s
    decide
  · unfold encFn
    generalize f.DL = d, f.N.read = n, f.F.read = f
    revert d n f
    decide

/-- Settles O5: four rows of 256 columns, and 256 locations. -/
theorem addressBytes : Obligations.AddressBytes := by
  have hdd : ∀ r < 4, ∀ col : Byte, ddramByte HdEnc.standard col r =
      BitVec.ofNat 8 (0x80 ||| (col.toNat + (([0x00, 0x40, 0x14, 0x54] : List Nat)[r]?).getD 0)) ∧
      (ddramByte HdEnc.standard col r).getLsbD 7 = true := by decide +kernel
  have hcg : ∀ l : Byte, (cgramByte HdEnc.standard l).toNat = 0x40 + 8 * (l.toNat % 8) := by decide +kernel
  exact ⟨fun col r hr => hdd r hr col, hcg⟩

/-- Settles O6: by which bits of a shift word are 1, and the positions being apart. -/
theorem shiftWordBits : Obligations.ShiftWordBits := by
  intro c n v m w e hwf hw
  have hp := ShiftRegWiring.positionsApart hwf
  have hmem {k : Nat} {q : Pos} (h : c.dataPos[k]? = some q) : q ∈ c.dataPos := List.mem_of_getElem? h
  have bit (q : Pos) (hq : q < n) := srWord_testBit c n v m w e q hq
  refine ⟨?_, fun q hq => ?_, fun q hq => ?_, fun i q hi hq => ?_, fun q hrs hen hdata => ?_, srWord_lt ..⟩
  · rw [Bool.eq_iff_iff, bit _ hp.rs_lt, decide_eq_true_eq]
    refine ⟨?_, fun hm => .inl ⟨hm, rfl⟩⟩
    rintro (⟨hm, -⟩ | ⟨-, hen⟩ | ⟨k, -, hk, -⟩)
    · exact hm
    · exact absurd rfl (hp.en _ hen).2.1
    · exact absurd (hmem hk) hp.rs_data
  · obtain ⟨hlt, hrs, hdata, -⟩ := hp.en q hq
    rw [Bool.eq_iff_iff, bit q hlt]
    refine ⟨?_, fun he => .inr (.inl ⟨he, hq⟩)⟩
    rintro (⟨-, h⟩ | ⟨he, -⟩ | ⟨k, -, hk, -⟩)
    · exact absurd h hrs
    · exact he
    · exact absurd (hmem hk) hdata
  · obtain ⟨hlt, hrs, hdata⟩ := hp.rw q hq
    rw [← Bool.not_eq_true, bit q hlt]
    rintro (⟨-, h⟩ | ⟨-, hen⟩ | ⟨k, -, hk, -⟩)
    · exact hrs h
    · exact (hp.en q hen).2.2.2 hq
    · exact hdata (hmem hk)
  · rw [Bool.eq_iff_iff, bit q (hp.data_lt q (hmem hq))]
    refine ⟨?_, fun hv => .inr (.inr ⟨i, hi, hq, hv⟩)⟩
    rintro (⟨-, rfl⟩ | ⟨-, hen⟩ | ⟨k, -, hk, hv⟩)
    · exact absurd (hmem hq) hp.rs_data
    · exact absurd (hmem hq) (hp.en q hen).2.2.1
    · obtain rfl : i = k := (List.getElem?_inj (List.getElem?_eq_some_iff.1 hq).1 hp.nodup).1 (hq.trans hk.symm)
      exact hv
  · by_cases hlt : q < n
    · rw [← Bool.not_eq_true, bit q hlt]
      rintro (⟨-, h⟩ | ⟨-, h⟩ | ⟨k, hk, h, -⟩)
      · exact hrs h
      · exact hen h
      · exact hdata k hk h
    · exact Nat.testBit_lt_two_pow ((srWord_lt ..).trans_le (Nat.pow_le_pow_right two_pos (not_lt.1 hlt)))

/-- Settles O7: construction succeeds exactly for a well-formed configuration, its pins told apart pair by pair. -/
theorem constructionSucceedsExactlyWhenWellFormed : Obligations.ConstructionSucceedsExactlyWhenWellFormed := by
  intro t n e ht
  have hcfg (w : Wiring) : (∃ s, construct ⟨w, t, n, e⟩ = .next s) ↔ w.wf n :=
    (exists_construct_eq_next _).trans (and_iff_left ht)
  refine ⟨fun c => ?_, fun c => ?_, fun c => ?_⟩
  · rw [hcfg, Wiring.wf_direct, nodup_pins_direct]
  · have hen : c.enPin.isSome = !c.enPos.isSome ↔ (c.enPin.isSome = true ↔ c.enPos = none) := by
      cases c.enPin <;> cases c.enPos <;> simp
    rw [hcfg, Wiring.wf_shiftReg, nodup_pins_shiftReg, hen]
    tauto
  · rw [hcfg, Wiring.wf_callback]

/-- Settles O8: the reason is among the wiring's problems, and a problem is a condition that fails. -/
theorem refusalNamesAFailingCondition : Obligations.RefusalNamesAFailingCondition := by
  intro cfg r h
  have hr := mem_problems_of_refused h
  cases hw : cfg.wiring with
  | direct c =>
    simp only [hw, Wiring.problems, List.mem_append, CfgReason.mem_unless] at hr
    rcases hr with ⟨hc, rfl⟩ | ⟨hc, rfl⟩ | ⟨hc, rfl⟩
    · exact not_or.1 hc
    · exact hc
    · exact hc
  | shiftReg c =>
    simp only [hw, Wiring.problems, List.mem_append, CfgReason.mem_unless] at hr
    rcases hr with ⟨hc, rfl⟩ | (((((⟨hc, rfl⟩ | ⟨hc, rfl⟩) | ⟨hc, rfl⟩) | ⟨hc, rfl⟩) | ⟨hc, rfl⟩) | ⟨hc, rfl⟩)
    · exact not_or.1 hc
    · exact hc
    · exact hc
    · revert hc
      cases hp : c.enPin <;> cases hq : c.enPos <;> simp [hp, hq]
    · simpa using hc
    · simpa using hc
    · exact hc
  | callback c =>
    simp only [hw, Wiring.problems, List.mem_append, CfgReason.mem_unless, List.not_mem_nil, or_false] at hr
    obtain ⟨hc, rfl⟩ := hr
    exact not_or.1 hc

/-- Settles O9: nine positions do not fit below 8. -/
theorem eightBitShiftRegisterNeedsAWiderWord : Obligations.EightBitShiftRegisterNeedsAWiderWord := by
  intro c t n e hbw hn
  refine exists_refused_of_not_wf fun ⟨hwf, _⟩ => ?_
  have hle := length_positions_le hwf
  obtain ⟨-, hlen, -⟩ := (Wiring.wf_shiftReg c n).1 hwf
  simp [ShiftRegWiring.positions] at hle
  omega

/-- Settles O10: the state construction answers, field by field. -/
theorem constructedBlockIsReset : Obligations.ConstructedBlockIsReset := by
  refine ⟨fun cfg s h => ?_, construct_eq_next.2 ⟨by decide, rfl⟩⟩
  obtain ⟨-, rfl⟩ := construct_eq_next.1 h
  refine ⟨rfl, rfl, rfl, ?_, by simp [State.marks, State.constructed], rfl⟩
  simp [State.constructed, beq_eq_decide]

end Sys2Proof.Machine

/-! # The operation family: faults, whole results, frames and the register invariant

Read off the closed form of `exec`: what a step of the host's queue is, what each operation leaves, which fields it
reads, and the invariants of the registers and of the fault register. -/

namespace Sys2Proof.Machine

/-! ## The fields of a result -/

@[simp] theorem opResult_cfg (i : Instr) (s : State) : (opResult i s).cfg = s.cfg := opWrites_cfg i s
@[simp] theorem opResult_fault (i : Instr) (s : State) : (opResult i s).fault = s.fault := opWrites_fault i s
@[simp] theorem opResult_phase (i : Instr) (s : State) : (opResult i s).phase = (opWrites i s).phase := rfl
@[simp] theorem opResult_fn (i : Instr) (s : State) : (opResult i s).fn = (opWrites i s).fn := rfl
@[simp] theorem opResult_ctl (i : Instr) (s : State) : (opResult i s).ctl = (opWrites i s).ctl := rfl
@[simp] theorem opResult_ent (i : Instr) (s : State) : (opResult i s).ent = (opWrites i s).ent := rfl
@[simp] theorem opResult_lineCount (i : Instr) (s : State) :
    (opResult i s).lineCount = (opWrites i s).lineCount := rfl
@[simp] theorem opResult_currentLine (i : Instr) (s : State) :
    (opResult i s).currentLine = (opWrites i s).currentLine := rfl
@[simp] theorem opResult_numCols (i : Instr) (s : State) : (opResult i s).numCols = (opWrites i s).numCols := rfl

/-- The registers that `begin` alone writes (10_state.md R26, R28, R31 to R33). -/
theorem opWrites_frame {i : Instr} (hi : i.op ≠ .begin) (s : State) :
    (opWrites i s).phase = s.phase ∧ (opWrites i s).fn = s.fn ∧ (opWrites i s).lineCount = s.lineCount ∧
      (opWrites i s).currentLine = s.currentLine ∧ (opWrites i s).numCols = s.numCols := by
  cases i with
  | begin => exact absurd rfl hi
  | _ => exact ⟨rfl, rfl, rfl, rfl, rfl⟩

theorem opWrites_pending (i : Instr) (s : State) : (opWrites i s).pending = s.pending := by cases i <;> rfl

theorem opWrites_DL (i : Instr) (s : State) : (opWrites i s).fn.DL = s.fn.DL := by cases i <;> rfl

/-- What an operation writes it writes with a value: no register goes back to ⊥ (10_state.md R41). -/
theorem opWrites_marks (i : Instr) {s : State} (h : s.marks true) : (opWrites i s).marks true := by
  obtain ⟨hN, hF, hD, hC, hB, hID, hSH, hl, hc, hn⟩ := h
  cases i with
  | begin => exact ⟨rfl, rfl, rfl, rfl, rfl, rfl, rfl, rfl, rfl, rfl⟩
  | display | noDisplay => exact ⟨hN, hF, rfl, hC, hB, hID, hSH, hl, hc, hn⟩
  | cursor | noCursor => exact ⟨hN, hF, hD, rfl, hB, hID, hSH, hl, hc, hn⟩
  | blink | noBlink => exact ⟨hN, hF, hD, hC, rfl, hID, hSH, hl, hc, hn⟩
  | leftToRight | rightToLeft => exact ⟨hN, hF, hD, hC, hB, rfl, hSH, hl, hc, hn⟩
  | autoscroll | noAutoscroll => exact ⟨hN, hF, hD, hC, hB, hID, rfl, hl, hc, hn⟩
  | _ => exact ⟨hN, hF, hD, hC, hB, hID, hSH, hl, hc, hn⟩

/-- The registers `begin` writes, one by one (41_initialization.md R141, R147, R149, R150). -/
theorem opWrites_begin (cols rows : Byte) (font : Font) (s : State) :
    opWrites (.begin cols rows font) s =
      { s with
        phase := .ready
        fn := { DL := s.fn.DL, N := Reg.holding (decide (2 ≤ rows.toNat)),
                F := Reg.holding (decide (font = .font5x10 ∧ rows = 1)) }
        ctl := ctlAfterBegin
        ent := entAfterBegin
        lineCount := Reg.holding rows
        currentLine := Reg.holding 0
        numCols := Reg.holding cols } := by
  cases s
  rfl

/-! ## Results in a ready state -/

/-- An operation that writes no register, in a ready state: its words, its delay and its return value. -/
theorem exec_of_writes_none {i : Instr} {s : State} (h : s.isReady) (hi : i.op ≠ .begin) (hw : opWrites i s = s) :
    exec i s = .next { s with
      trace := s.trace ++ (wordEvents s.cfg (opWords i s) ++ opTail i s.cfg.timing), ret := opReturns i } := by
  rw [exec_of_ready hi h, opResult, hw, opEvents_of_ne_begin hi]
  rfl

/-- The result of an operation but `begin` is a ready state again. -/
theorem opResult_isReady {i : Instr} (hi : i.op ≠ .begin) {s : State} (h : s.isReady) : (opResult i s).isReady :=
  ⟨(opResult_fault i s).trans h.1, (opWrites_phase hi s).trans h.2⟩

/-- The state an operation but `begin` answers in a ready state. -/
theorem eq_opResult_of_ready {i : Instr} (hi : i.op ≠ .begin) {s t : State} (h : s.isReady)
    (hexec : exec i s = .next t) : t = opResult i s := by
  simpa [exec_of_ready hi h] using hexec.symm

/-- `begin` with 1 to 4 rows completes in every fresh state (41_initialization.md R140). -/
theorem exec_begin_of_fresh {cols rows : Byte} {font : Font} {s : State} (h : s.isFresh) (h1 : 1 ≤ rows.toNat)
    (h4 : rows.toNat ≤ 4) : exec (.begin cols rows font) s = .next (opResult (.begin cols rows font) s) :=
  exec_completes h.1 ((opBreach_begin_eq_none ..).2 ⟨h.2, h1, h4⟩)

/-- One operation after another, in a ready state. -/
theorem exec_pair {i j : Instr} (hi : i.op ≠ .begin) (hj : j.op ≠ .begin) {s t u : State} (h : s.isReady)
    (ht : exec i s = .next t) (hu : exec j t = .next u) : u = opResult j (opResult i s) := by
  obtain rfl := eq_opResult_of_ready hi h ht
  exact eq_opResult_of_ready hj (opResult_isReady hi h) hu

/-- Two operations with the same breach and the same result have the same outcome. -/
theorem exec_congr {i j : Instr} {s : State} (hbreach : opBreach i s.phase = opBreach j s.phase)
    (hresult : opResult i s = opResult j s) : exec i s = exec j s := by
  cases hf : s.fault with
  | some code => rw [exec_of_fault i hf, exec_of_fault j hf]
  | none =>
    cases hb : opBreach i s.phase with
    | some code => rw [exec_of_breach hf hb, exec_of_breach hf (hbreach ▸ hb)]
    | none => rw [exec_completes hf hb, exec_completes hf (hbreach ▸ hb), hresult]

/-! ## Sequences of actions -/

/-- Actions done in two parts; a fault of the first part ends both. -/
theorem perform_append (a b : List (State → State)) (s : State) : perform (a ++ b) s = perform b (perform a s) := by
  induction a generalizing s with
  | nil => rfl
  | cons x a ih =>
    cases hf : s.fault with
    | some code => simp [perform_of_fault hf]
    | none => rw [List.cons_append, perform_cons hf, perform_cons hf, ih]

/-- A transmission of another width raises BAD_WIDTH (40_transmission.md R101). -/
theorem transmit_eq_raise (v : Byte) (m : Mode) {w : Nat} (h4 : w ≠ 4) (h8 : w ≠ 8) (s : State) :
    transmit v m w s = raise (.badWidth w) s := by
  simp [transmit, h4, h8]

/-! ## Fields no operation reads, or few -/

/-- If raising a fault and completing commute with a change of state, so does the operation. -/
theorem exec_comm (change : State → State) {i : Instr} {s : State} (hfault : (change s).fault = s.fault)
    (hphase : (change s).phase = s.phase) (hraise : ∀ code, raise code (change s) = change (raise code s))
    (hresult : opResult i (change s) = change (opResult i s)) :
    exec i (change s) = mapNext change (exec i s) := by
  cases hf : s.fault with
  | some code => rw [exec_of_fault i hf, exec_of_fault i (hfault.trans hf)]; rfl
  | none =>
    cases hb : opBreach i s.phase with
    | some code => rw [exec_of_breach hf hb, exec_of_breach (hfault.trans hf) (hphase ▸ hb), hraise]; rfl
    | none => rw [exec_completes hf hb, exec_completes (hfault.trans hf) (hphase ▸ hb), hresult]; rfl

theorem opResult_of_lineCount {i : Instr} (hi : i.op ≠ .setCursor) (s : State) (x y : Reg Byte) :
    { opResult i { s with lineCount := x } with lineCount := y } = { opResult i s with lineCount := y } := by
  cases i with
  | setCursor => exact absurd rfl hi
  | _ => rfl

theorem opResult_of_fn {i : Instr} (hi : i.op ≠ .begin) (s : State) (f : FnFlags) :
    opResult i { s with fn := f } = { opResult i s with fn := f } := by
  cases i with
  | begin => exact absurd rfl hi
  | _ => rfl

theorem opResult_of_currentLine (i : Instr) (s : State) (x y : Reg Byte) :
    { opResult i { s with currentLine := x } with currentLine := y } = { opResult i s with currentLine := y } := by
  cases i <;> rfl

theorem opResult_of_ret (i : Instr) (s : State) (x y : Option Nat) :
    { opResult i { s with ret := x } with ret := y } = { opResult i s with ret := y } := by
  cases i <;> rfl

/-! ## The clamp and the mask -/

/-- The last row is the clamp of every row past it; with no rows at all both clamp to row 0. -/
theorem clampRow_pred {row lineCount : Byte} (h : lineCount.toNat ≤ row.toNat) :
    clampRow (lineCount - 1) lineCount = clampRow row lineCount := by
  have hlt := lineCount.isLt
  have hpred : (lineCount - 1).toNat = (256 - 1 + lineCount.toNat) % 256 := BitVec.toNat_sub _ _
  unfold clampRow
  split <;> omega

theorem cgramByte_mask (e : HdEnc) (location : Byte) : cgramByte e (location &&& 0x07) = cgramByte e location := by
  simp [cgramByte, BitVec.and_assoc]

/-! ## Steps -/

theorem step_of_pending {s : State} {i : Instr} {rest : List Instr} (h : s.pending = i :: rest) :
    step s = exec i (s.setPending rest) := by
  simp only [step, h]

/-- What every operation keeps, and no change of the queue breaks, every step keeps. -/
theorem step_keeps {P : State → Prop} (hqueue : ∀ s q, P s → P (s.setPending q))
    (hexec : ∀ i s t, P s → exec i s = .next t → P t) {s t : State} (h : P s) (hstep : step s = .next t) : P t := by
  cases hp : s.pending with
  | nil =>
    simp only [step, hp, Host.Outcome.next.injEq] at hstep
    exact hstep ▸ h
  | cons i rest =>
    rw [step_of_pending hp] at hstep
    exact hexec i _ t (hqueue s rest h) hstep

/-! ## The register invariant -/

theorem registersOk_opResult_begin {cols rows : Byte} {font : Font} {s : State} (h : s.registersOk)
    (hr : 1 ≤ rows.toNat ∧ rows.toNat ≤ 4) : (opResult (.begin cols rows font) s).registersOk := by
  have hDL : (opResult (.begin cols rows font) s).fn.DL = decide ((opResult (.begin cols rows font) s).cfg.bw = 8) := by
    rw [opResult_fn, opResult_cfg, opWrites_DL, h.1]
  have hF : (opResult (.begin cols rows font) s).fn.F.read = true → rows = 1 := fun h => (of_decide_eq_true h).2
  have hmarks : (opResult (.begin cols rows font) s).marks true :=
    ⟨rfl, rfl, rfl, rfl, rfl, rfl, rfl, rfl, rfl, rfl⟩
  exact ⟨hDL, fun _ => ⟨hr.1, hr.2, rfl, hF, rfl, hmarks⟩, nofun⟩

theorem registersOk_opResult {i : Instr} (hi : i.op ≠ .begin) {s : State} (h : s.registersOk)
    (hp : s.phase = .ready) : (opResult i s).registersOk := by
  obtain ⟨hDL, hready, -⟩ := h
  obtain ⟨h1, h4, hN, hF, hcur, hmarks⟩ := hready hp
  obtain ⟨hphase, hfn, hline, hcurrent, -⟩ := opWrites_frame hi s
  have hmarks' : (opResult i s).marks true := opWrites_marks i hmarks
  simp only [State.registersOk, opResult_cfg, opResult_phase, opResult_fn, opResult_lineCount, opResult_currentLine,
    hphase, hfn, hline, hcurrent, hp]
  exact ⟨hDL, fun _ => ⟨h1, h4, hN, hF, hcur, hmarks'⟩, nofun⟩

/-- Every operation keeps the register invariant: a raised fault touches no register of it. -/
theorem exec_keeps_registersOk {i : Instr} {s t : State} (h : s.registersOk) (hexec : exec i s = .next t) :
    t.registersOk := by
  obtain ⟨-, ⟨code, -, rfl⟩ | ⟨hb, rfl⟩⟩ := exec_next hexec
  · exact h
  · by_cases hi : i.op = .begin
    · obtain ⟨cols, rows, font, rfl⟩ := exists_eq_begin hi
      exact registersOk_opResult_begin h ((opBreach_begin_eq_none ..).1 hb).2
    · exact registersOk_opResult hi h (by simpa [opBreach_of_ne_begin hi] using hb)

theorem constructed_registersOk (cfg : Config) : (State.constructed cfg).registersOk := by
  refine ⟨?_, nofun, fun _ => ⟨⟨rfl, rfl, rfl, rfl, rfl, rfl, rfl, rfl, rfl, rfl⟩, rfl⟩⟩
  simp [State.constructed, beq_eq_decide]

/-! ## The fault invariant -/

/-- The fault an operation raises is one of the phase it is raised in (60_exceptions.md R222). -/
theorem opBreach_fitsPhase {i : Instr} {p : Phase} {code : FaultCode} (h : opBreach i p = some code) :
    code.fitsPhase p := by
  by_cases hi : i.op = .begin
  · obtain ⟨cols, rows, font, rfl⟩ := exists_eq_begin hi
    cases p with
    | ready => cases h; rfl
    | powerUnknown =>
      by_cases hr : 1 ≤ rows.toNat ∧ rows.toNat ≤ 4
      · simp [opBreach, hr] at h
      · simp only [opBreach, if_true, hr, if_false, Option.some.injEq] at h
        subst h
        exact ⟨rfl, hr⟩
  · rw [opBreach_of_ne_begin hi] at h
    cases p with
    | ready => cases h
    | powerUnknown => cases h; exact ⟨rfl, hi⟩

theorem exec_keeps_faultOk {i : Instr} {s t : State} (hexec : exec i s = .next t) : t.faultOk := by
  obtain ⟨hf, ⟨code, hb, rfl⟩ | ⟨-, rfl⟩⟩ := exec_next hexec
  · rintro _ ⟨⟩
    exact opBreach_fitsPhase hb
  · intro code hcode
    simp [hf] at hcode

/-! ## The obligations -/

/-- Settles O44: `begin` establishes the invariant of a ready block and every other operation keeps it. -/
theorem registerInvariantIsKept : Obligations.RegisterInvariantIsKept := fun _ _ h hstep =>
  step_keeps (fun _ _ h => h) (fun _ _ _ => exec_keeps_registersOk) h hstep

/-- Settles O45: nothing is written at construction. -/
theorem constructedBlocksMeetTheRegisterInvariant : Obligations.ConstructedBlocksMeetTheRegisterInvariant :=
  ⟨constructed_registersOk, constructed_registersOk _⟩

/-- Settles O47: whatever an operation leaves in the fault register, it raised in the phase it was run in. -/
theorem faultInvariantIsKept : Obligations.FaultInvariantIsKept := fun _ _ h hstep =>
  step_keeps (fun _ _ h => h) (fun _ _ _ _ => exec_keeps_faultOk) h hstep

/-- Settles O11: the three cases of the queue. -/
theorem stepRunsTheIssuedOperation : Obligations.StepRunsTheIssuedOperation := by
  refine ⟨fun s i rest h => step_of_pending h, fun s h => by simp only [step, h], fun s nbits w i h => ?_⟩
  rw [State.withFetchWord, h]
  exact step_of_pending rfl

/-- Settles O12: an operation in the wrong phase breaks its contract. -/
theorem operationsBeforeBeginAreNotReady : Obligations.OperationsBeforeBeginAreNotReady := by
  intro i s hi ⟨hf, hp⟩
  exact exec_of_breach hf (by rw [opBreach_of_ne_begin hi, hp]; rfl)

/-- Settles O13: the two breaches of `begin`. -/
theorem beginContractFaults : Obligations.BeginContractFaults := by
  refine ⟨fun cols rows font s ⟨hf, hp⟩ hr => exec_of_breach hf ?_,
    fun cols rows font s ⟨hf, hp⟩ => exec_of_breach hf ?_⟩
  · have hr' : ¬ (1 ≤ rows.toNat ∧ rows.toNat ≤ 4) := by
      rcases hr with rfl | hr
      · decide
      · omega
    simp only [opBreach, hp, if_true, hr', if_false]
  · simp only [opBreach, hp, reduceCtorEq, if_false]

/-- Settles O14: a set fault register stops every operation. -/
theorem faultedBlockHasNoStep : Obligations.FaultedBlockHasNoStep := fun i _ _ h => exec_of_fault i h

/-- Settles O15: the transmission raises the fault, and a set fault ends the rest. -/
theorem badWidthEndsAnOperation : Obligations.BadWidthEndsAnOperation := by
  intro v m w before after s h4 h8 h
  rw [perform_append, perform_cons h, transmit_eq_raise v m h4 h8]
  exact perform_of_fault (code := .badWidth w) rfl after

/-- Settles O16: `begin` meets its contract, and its result is the state written out. -/
theorem beginCompletes : Obligations.BeginCompletes := by
  intro cols rows font s h h1 h4 fn
  rw [exec_begin_of_fresh h h1 h4, opResult, opEvents, opWrites_begin]
  rfl

/-- Settles O17: both operations write no register and have one word. -/
theorem rawOperationsSendTheirByte : Obligations.RawOperationsSendTheirByte := by
  intro value s h
  constructor <;> rw [exec_of_writes_none h (by simp [Instr.op]) rfl] <;> simp [opWords, opTail, Instr.op, opReturns]

/-- Settles O18: both operations write no register and have one word and a delay. -/
theorem clearAndHomeSendAndWait : Obligations.ClearAndHomeSendAndWait := by
  refine ⟨fun s h => ?_, rfl, rfl⟩
  constructor <;> rw [exec_of_writes_none h (by simp [Instr.op]) rfl] <;> simp [opWords, opTail, Instr.op, opReturns]

/-- Settles O19: the word of `setCursor` on either side of the clamp. -/
theorem setCursorSendsTheAddress : Obligations.SetCursorSendsTheAddress := by
  intro col row s h
  constructor <;> intro hrow <;> rw [exec_of_writes_none h (by simp [Instr.op]) rfl]
  · simp [opWords, opTail, Instr.op, opReturns, clampRow, Nat.not_le.2 hrow]
  · simp [opWords, opTail, Instr.op, opReturns, clampRow, hrow]

/-- Settles O22: both operations write no register and have one word. -/
theorem scrollsSendTheirByte : Obligations.ScrollsSendTheirByte := by
  refine ⟨fun s h => ?_, by decide, by decide⟩
  constructor <;> rw [exec_of_writes_none h (by simp [Instr.op]) rfl] <;> simp [opWords, opTail, Instr.op, opReturns]

/-- Settles O23: the nine words of `createChar`. -/
theorem createCharSendsSlotAndRows : Obligations.CreateCharSendsSlotAndRows := by
  intro location g s h
  rw [exec_of_writes_none h (by simp [Instr.op]) rfl]
  simp [opWords, opTail, Instr.op, opReturns, Glyph.rows]

/-- Settles O24: a ready block completes every operation but `begin` with its words and its delay. -/
theorem operationEmitsItsWords : Obligations.OperationEmitsItsWords := by
  intro i s hi h
  refine ⟨_, exec_of_ready hi h, ?_⟩
  rw [opResult_trace, opEvents_of_ne_begin hi, List.append_assoc]

/-- Settles O36: a raised fault changes the fault register alone; a result has what `opWrites` leaves. -/
theorem frameOfEveryOperation : Obligations.FrameOfEveryOperation := by
  intro i s t h
  obtain ⟨hf, ⟨code, -, rfl⟩ | ⟨-, rfl⟩⟩ := exec_next h
  · exact ⟨rfl, rfl, rfl, fun _ => ⟨rfl, rfl, rfl, rfl, rfl⟩, fun _ => ⟨rfl, rfl, rfl⟩, fun _ => ⟨rfl, rfl, rfl⟩,
      fun _ => ⟨rfl, rfl, rfl⟩, fun _ => ⟨rfl, rfl⟩, fun _ => ⟨rfl, rfl⟩, fun _ => ⟨rfl, rfl⟩, fun _ => rfl⟩
  · refine ⟨opResult_cfg i s, opWrites_pending i s, opWrites_DL i s, fun hi => opWrites_frame hi s, ?_, ?_, ?_, ?_, ?_,
      fun hi => ?_, absurd ((opResult_fault i s).trans hf)⟩
    iterate 5 · cases i <;> simp [Instr.op, opWrites]
    · constructor
      · exact opWrites_ctl s (by revert hi; cases i.op <;> decide)
      · exact opWrites_ent s (by revert hi; cases i.op <;> decide)

/-- Settles O39: the four registers, each by what the result does with another value in it. -/
theorem whichOperationsReadWhichRegisters : Obligations.WhichOperationsReadWhichRegisters := by
  refine ⟨fun i s x y hi => ?_, fun i s f hi => ?_, fun i s x y => ?_, fun i s x y => ?_⟩
  · exact mapNext_exec_congr _ rfl rfl (fun _ => rfl) (opResult_of_lineCount hi s x y)
  · exact exec_comm (fun t => { t with fn := f }) rfl rfl (fun _ => rfl) (opResult_of_fn hi s f)
  · exact mapNext_exec_congr _ rfl rfl (fun _ => rfl) (opResult_of_currentLine i s x y)
  · exact mapNext_exec_congr _ rfl rfl (fun _ => rfl) (opResult_of_ret i s x y)

/-- Settles O42: the events of `begin` are its stages' (`opEvents`), and O41 has the order of the stages. -/
theorem beginPassesTheSourcesStates : Obligations.BeginPassesTheSourcesStates := by
  intro cols rows font s t h ht
  obtain ⟨-, -, -, -, hstages⟩ := phaseGoesFromPowerUnknownToReady
  refine ⟨?_, hstages _ _⟩
  rw [exec_next_of_no_fault h ht]
  exact opResult_trace (.begin cols rows font) s

/-- Settles O50: the second call finds the bit set. -/
theorem displayIsIdempotent : Obligations.DisplayIsIdempotent := by
  intro s h
  have hd : Instr.display.op ≠ .begin := by decide
  exact ⟨_, _, opEvents .display s, exec_of_ready hd h, exec_of_ready hd (opResult_isReady hd h), rfl, rfl, rfl⟩

/-- Settles O51: the pair leaves the bit written and clear, and the other bits of the group as they were. -/
theorem setClearPairsRestoreExactlyFromClear : Obligations.SetClearPairsRestoreExactlyFromClear := by
  intro s h
  refine ⟨fun t u ht hu => ?_, fun t u ht hu => ?_, fun t u ht hu => ?_, fun t u ht hu => ?_, fun t u ht hu => ?_⟩ <;>
    rw [exec_pair (by decide) (by decide) h ht hu]
  all_goals exact ⟨fun hu => by rw [← hu]; rfl, fun hs => by simp [opWrites, ← hs]⟩

/-- Settles O52: the clamp and the mask give the same word. -/
theorem clampAndMask : Obligations.ClampAndMask := by
  refine ⟨fun col row s h => exec_congr rfl ?_, fun location g s => exec_congr rfl ?_⟩
  · simp only [opResult, opEvents, opWrites, opWords, opTail, opReturns, Instr.op, clampRow_pred h]
  · simp only [opResult, opEvents, opWrites, opWords, opTail, opReturns, Instr.op, cgramByte_mask]

end Sys2Proof.Machine

/-! # The event family: what a transmission and the initialization put in the trace

The events of each wiring's transmission in one row, their number, their time, their shape under another HD_ENC, and
that each of them is one the block may emit. -/

namespace Sys2Proof.Machine

/-! ## The three shapes of a Shift-Register wiring -/

/-- A well-formed Shift-Register wiring has an enable pin, with or without a latch on another pin, or routes enable
through the word and has no latch (10_state.md R22, 40_transmission.md R105). -/
theorem shapes_of_wf {c : ShiftRegWiring} {n : Nat} (h : (Wiring.shiftReg c).wf n) :
    (∃ l p, c.latch = some l ∧ c.enPin = some p ∧ p ≠ l) ∨ (∃ p, c.latch = none ∧ c.enPin = some p) ∨
      (∃ q, c.latch = none ∧ c.enPin = none ∧ c.enPos = some q) := by
  obtain ⟨-, -, -, hen, hlatch, -⟩ := (Wiring.wf_shiftReg c n).1 h
  cases hl : c.latch with
  | some l =>
    obtain ⟨p, hp, hpl⟩ := exists_enPin_of_latch h hl
    exact .inl ⟨l, p, rfl, hp, hpl⟩
  | none =>
    cases hp : c.enPin with
    | some p => exact .inr (.inl ⟨p, rfl, rfl⟩)
    | none =>
      obtain ⟨q, hq⟩ : ∃ q, c.enPos = some q := by simpa [hp, Option.isSome_iff_exists] using hen
      exact .inr (.inr ⟨q, rfl, rfl, hq⟩)

theorem bw_of_wf {cfg : Config} (h : cfg.wf) : cfg.bw = 4 ∨ cfg.bw = 8 := Wiring.wf_bw h.1

/-! ## The events of a transmission, by wiring -/

theorem rsLevel_eq (m : Mode) : rsLevel m = if m = .data then .high else .low := by cases m <;> rfl

/-- The data writes, pin by pin with the bit each carries (40_transmission.md R102). -/
theorem dataWrites_eq (v : Byte) (i : Nat) (l : List Pin) :
    dataWrites v i l = (l.zipIdx i).map fun x => Event.write x.1 (bitLevel v x.2) := by
  induction l generalizing i with
  | nil => rfl
  | cons p l ih => simp [dataWrites, ih]

theorem txEvents_direct {cfg : Config} {c : DirectWiring} (hw : cfg.wiring = .direct c) (v : Byte) (m : Mode)
    (w : Nat) :
    txEvents cfg v m w = [.write c.rs (rsLevel m)] ++ c.rw.toList.map (fun p => Event.write p .low) ++
      dataWrites v 0 (c.data.take w) ++ pulseDirect c cfg.timing := by
  simp only [txEvents, hw, txDirect]
  cases c.rw <;> simp

/-- A transmission with an enable pin and no latch: shift, enable pulse (40_transmission.md R105, R107). -/
theorem txEvents_unlatched {cfg : Config} {c : ShiftRegWiring} {p : Pin} (hw : cfg.wiring = .shiftReg c)
    (hl : c.latch = none) (hp : c.enPin = some p) (v : Byte) (m : Mode) (w : Nat) :
    txEvents cfg v m w = .shift c.sdata c.sclk (srWord c cfg.srWordBits v m w true) ::
      (pulseSrPin p cfg.timing ++ [.delay cfg.timing.tSettle]) := by
  simp [txEvents, hw, txShiftReg, hl, hp]

/-- A transmission with enable in the word: the word twice, enable 1 and then 0 (40_transmission.md R108). -/
theorem txEvents_routed {cfg : Config} {c : ShiftRegWiring} (hw : cfg.wiring = .shiftReg c)
    (hl : c.latch = none) (hp : c.enPin = none) (v : Byte) (m : Mode) (w : Nat) :
    txEvents cfg v m w = [.shift c.sdata c.sclk (srWord c cfg.srWordBits v m w true),
      .shift c.sdata c.sclk (srWord c cfg.srWordBits v m w false), .delay cfg.timing.tSettle] := by
  simp [txEvents, hw, txShiftReg, hl, hp]

theorem initPinsEvents_direct {cfg : Config} {c : DirectWiring} (hw : cfg.wiring = .direct c)
    (hlen : c.data.length = c.bw) :
    initPinsEvents cfg = (Wiring.direct c).pins.map .pinMode ++ [.write c.en .low] := by
  simp only [initPinsEvents, hw, Wiring.pins, List.take_of_length_le hlen.le]
  cases c.rw <;> simp

theorem initPinsEvents_shiftReg {cfg : Config} {c : ShiftRegWiring} (hw : cfg.wiring = .shiftReg c) :
    initPinsEvents cfg = (Wiring.shiftReg c).pins.map .pinMode ++ c.enPin.toList.map fun p => .write p .low := by
  simp only [initPinsEvents, hw, Wiring.pins]
  cases c.latch <;> cases c.enPin <;> simp

/-! ## Which bits of a value a transmission reads -/

theorem dataWrites_congr {v v' : Byte} {i : Nat} {l : List Pin}
    (h : ∀ k < l.length, v.getLsbD (i + k) = v'.getLsbD (i + k)) : dataWrites v i l = dataWrites v' i l := by
  induction l generalizing i with
  | nil => rfl
  | cons p l ih =>
    have h0 : v.getLsbD i = v'.getLsbD i := h 0 (by simp)
    have hl : dataWrites v (i + 1) l = dataWrites v' (i + 1) l := ih fun k hk => by
      simpa [Nat.add_assoc, Nat.add_comm 1 k] using h (k + 1) (by simpa using hk)
    rw [dataWrites, dataWrites, bitLevel, bitLevel, h0, hl]

theorem srWord_congr (c : ShiftRegWiring) (n : Nat) {v v' : Byte} (m : Mode) {w : Nat} (e : Bool)
    (h : ∀ i < w, v.getLsbD i = v'.getLsbD i) : srWord c n v m w e = srWord c n v' m w e := by
  refine Nat.eq_of_testBit_eq fun q => ?_
  by_cases hq : q < n
  · rw [Bool.eq_iff_iff, srWord_testBit _ _ _ _ _ _ _ hq, srWord_testBit _ _ _ _ _ _ _ hq]
    refine or_congr Iff.rfl (or_congr Iff.rfl (exists_congr fun k => and_congr_right fun hk => ?_))
    rw [h k hk]
  · simp only [srWord, Nat.testBit_mod_two_pow, hq, decide_false, Bool.false_and]

/-! ## Shapes: what stays under another value -/

/-- The same calls but for the values on the data lines. -/
def SameShape (w : Wiring) (a b : List Event) : Prop := a.map (Event.shape w) = b.map (Event.shape w)

theorem SameShape.refl (w : Wiring) (a : List Event) : SameShape w a a := rfl

theorem SameShape.append {w : Wiring} {a b a' b' : List Event} (h : SameShape w a b) (h' : SameShape w a' b') :
    SameShape w (a ++ a') (b ++ b') := by
  rw [SameShape, List.map_append, List.map_append, h, h']

theorem shape_dataWrites {c : DirectWiring} (v v' : Byte) (i : Nat) {l : List Pin} (h : l ⊆ c.data) :
    SameShape (.direct c) (dataWrites v i l) (dataWrites v' i l) := by
  induction l generalizing i with
  | nil => rfl
  | cons p l ih =>
    obtain ⟨hp, hl⟩ := List.cons_subset.1 h
    have htail : SameShape (.direct c) (dataWrites v (i + 1) l) (dataWrites v' (i + 1) l) := ih (i + 1) hl
    simp only [SameShape, dataWrites, List.map_cons, Event.shape, hp, if_true]
    exact congrArg _ htail

/-- Outside the data positions a shift word does not depend on the value. -/
theorem clearBits_srWord (c : ShiftRegWiring) (n : Nat) (v v' : Byte) (m : Mode) (w : Nat) (e : Bool) :
    clearBits c.dataPos (srWord c n v m w e) = clearBits c.dataPos (srWord c n v' m w e) := by
  refine Nat.eq_of_testBit_eq fun q => ?_
  rw [testBit_clearBits, testBit_clearBits]
  by_cases hmem : q ∈ c.dataPos
  · simp [hmem]
  by_cases hq : q < n
  · have hdata (x : Byte) : ¬ ∃ k, k < w ∧ c.dataPos[k]? = some q ∧ x.getLsbD k = true :=
      fun ⟨_, _, hk, _⟩ => hmem (List.mem_of_getElem? hk)
    have hbit : (srWord c n v m w e).testBit q = (srWord c n v' m w e).testBit q := by
      rw [Bool.eq_iff_iff, srWord_testBit _ _ _ _ _ _ _ hq, srWord_testBit _ _ _ _ _ _ _ hq]
      simp only [hdata]
    rw [hbit]
  · simp only [srWord, Nat.testBit_mod_two_pow, hq, decide_false, Bool.false_and]

/-- A transmission of another value, event for event. -/
theorem shape_txEvents (cfg : Config) (v v' : Byte) (m : Mode) (w : Nat) :
    SameShape cfg.wiring (txEvents cfg v m w) (txEvents cfg v' m w) := by
  cases hw : cfg.wiring with
  | direct c =>
    rw [txEvents_direct hw, txEvents_direct hw]
    exact ((SameShape.refl _ _).append (shape_dataWrites v v' 0 (List.take_subset _ _))).append (.refl _ _)
  | shiftReg c =>
    have hword (e : Bool) : Event.shape (.shiftReg c) (.shift c.sdata c.sclk (srWord c cfg.srWordBits v m w e)) =
        Event.shape (.shiftReg c) (.shift c.sdata c.sclk (srWord c cfg.srWordBits v' m w e)) := by
      simp only [Event.shape, clearBits_srWord c cfg.srWordBits v v']
    simp only [txEvents, hw, txShiftReg, SameShape, List.map_cons, List.map_append, hword]
    cases c.enPin <;> simp [hword]
  | callback c => simp [txEvents_callback hw, SameShape, Event.shape]

theorem shape_sendEvents (cfg : Config) (v v' : Byte) (m : Mode) :
    SameShape cfg.wiring (sendEvents cfg v m) (sendEvents cfg v' m) := by
  rw [sendEvents_eq, sendEvents_eq]
  split
  · exact shape_txEvents ..
  · exact (shape_txEvents ..).append (shape_txEvents ..)

/-- Words sent under the same modes, byte for byte. -/
theorem shape_wordEvents (cfg : Config) {ws ws' : List BusWord} (h : ws.map BusWord.mode = ws'.map BusWord.mode) :
    SameShape cfg.wiring (wordEvents cfg ws) (wordEvents cfg ws') := by
  induction ws generalizing ws' with
  | nil => rw [List.map_eq_nil_iff.1 h.symm]; rfl
  | cons x ws ih =>
    cases ws' with
    | nil => cases h
    | cons y ws' =>
      obtain ⟨hmode, hrest⟩ := List.cons.inj h
      rw [wordEvents_cons, wordEvents_cons, hmode]
      exact (shape_sendEvents ..).append (ih hrest)

theorem shape_rawByte (cfg : Config) (v v' : Byte) (after : List Nat) :
    SameShape cfg.wiring (rawByte cfg v after) (rawByte cfg v' after) :=
  (shape_sendEvents ..).append (.refl _ _)

theorem shape_forceStages (cfg : Config) (b b' : Byte) :
    SameShape cfg.wiring ((forceStages cfg b).flatMap Prod.snd) ((forceStages cfg b').flatMap Prod.snd) := by
  have hraw (after : List Nat) := shape_rawByte cfg b b' after
  unfold forceStages
  split
  · exact (SameShape.refl _ _).append (((SameShape.refl _ _).append ((hraw _).append (.refl _ _))).append (.refl _ _))
  · exact ((hraw _).append ((hraw _).append ((hraw _).append ((hraw _).append (.refl _ _))))).append (.refl _ _)

/-- `begin` under another HD_ENC, event for event. -/
theorem shape_beginEvents (cfg : Config) (e : HdEnc) (b b' : Byte) :
    SameShape cfg.wiring (beginEvents { cfg with hdEnc := e } b) (beginEvents cfg b') := by
  rw [beginEvents_eq, beginEvents_eq]
  exact (((((SameShape.refl _ _).append (.refl _ _)).append (shape_forceStages cfg b b')).append
    (shape_sendEvents cfg _ _ _)).append (shape_rawByte cfg _ _ _)).append (shape_sendEvents cfg _ _ _)

/-! ## Another HD_ENC -/

theorem opWrites_withHdEnc (i : Instr) (s : State) (e : HdEnc) :
    opWrites i (s.withHdEnc e) = (opWrites i s).withHdEnc e := by
  cases s
  cases i <;> rfl

/-- The events of an operation under another HD_ENC, event for event. -/
theorem shape_opEvents (i : Instr) (s : State) (e : HdEnc) :
    SameShape s.cfg.wiring (opEvents i (s.withHdEnc e)) (opEvents i s) := by
  by_cases hi : i.op = .begin
  · obtain ⟨cols, rows, font, rfl⟩ := exists_eq_begin hi
    exact shape_beginEvents s.cfg e _ _
  · have hmodes : (opWords i (s.withHdEnc e)).map BusWord.mode = (opWords i s).map BusWord.mode := by
      cases i with
      | createChar => simp [opWords]
      | _ => rfl
    rw [opEvents_of_ne_begin hi, opEvents_of_ne_begin hi]
    exact (shape_wordEvents s.cfg hmodes).append (.refl _ _)

theorem opResult_withHdEnc (i : Instr) (s : State) (e : HdEnc) :
    opResult i (s.withHdEnc e) =
      { (opResult i s).withHdEnc e with trace := s.trace ++ opEvents i (s.withHdEnc e) } := by
  rw [opResult, opWrites_withHdEnc, ← opWrites_trace i s]
  rfl

/-- The operand of `write` and of `command` is the byte sent, whatever HD_ENC (42_commands.md R162, R163). -/
theorem opEvents_withHdEnc {i : Instr} (hi : i.op = .write ∨ i.op = .command) (s : State) (e : HdEnc) :
    opEvents i (s.withHdEnc e) = opEvents i s := by
  cases i with
  | write | command => rfl
  | _ => simp [Instr.op] at hi

/-! ## Time -/

theorem blockingTime_dataWrites (v : Byte) (i : Nat) (l : List Pin) : blockingTime (dataWrites v i l) = 0 := by
  induction l generalizing i with
  | nil => rfl
  | cons p l ih => exact ih (i + 1)

/-- One transmission takes `P` (70_reset_and_hazards.md R252). -/
theorem blockingTime_txEvents (cfg : Config) (v : Byte) (m : Mode) (w : Nat) :
    blockingTime (txEvents cfg v m w) = transmissionTime cfg := by
  cases hw : cfg.wiring with
  | direct c =>
    rw [txEvents_direct hw]
    cases c.rw <;>
      simp [blockingTime_append, blockingTime_dataWrites, blockingTime, pulseDirect, transmissionTime, hw, Nat.add_comm]
  | shiftReg c =>
    cases hl : c.latch <;> cases hp : c.enPin <;>
      simp [txEvents, hw, txShiftReg, hl, hp, blockingTime, pulseSrPin, transmissionTime, Nat.add_comm]
  | callback c => simp [txEvents_callback hw, blockingTime, transmissionTime, hw]

/-- A byte takes `8 / BW` transmissions. -/
theorem blockingTime_sendEvents {cfg : Config} (hbw : cfg.bw = 4 ∨ cfg.bw = 8) (v : Byte) (m : Mode) :
    blockingTime (sendEvents cfg v m) = 8 / cfg.bw * transmissionTime cfg := by
  rw [sendEvents_eq]
  rcases hbw with hbw | hbw <;> simp [hbw, blockingTime_append, blockingTime_txEvents, Nat.two_mul]

theorem blockingTime_wordEvents {cfg : Config} (hbw : cfg.bw = 4 ∨ cfg.bw = 8) (ws : List BusWord) :
    blockingTime (wordEvents cfg ws) = ws.length * (8 / cfg.bw) * transmissionTime cfg := by
  induction ws with
  | nil => simp [blockingTime]
  | cons w ws ih =>
    rw [wordEvents_cons, blockingTime_append, blockingTime_sendEvents hbw, ih, List.length_cons]
    ring

theorem length_opWords {i : Instr} (hi : i.op ≠ .begin) (s : State) :
    (opWords i s).length = if i.op = .createChar then 9 else 1 := by
  cases i with
  | begin => exact absurd rfl hi
  | _ => rfl

theorem blockingTime_opTail (i : Instr) (t : Timing) :
    blockingTime (opTail i t) = if i.op = .clear ∨ i.op = .home then t.tClear else 0 := by
  cases i <;> simp [opTail, Instr.op, blockingTime]

theorem blockingTime_initPinsEvents (cfg : Config) : blockingTime (initPinsEvents cfg) = 0 := by
  have hmodes (ps : List Pin) : blockingTime (ps.map .pinMode) = 0 := by
    induction ps with
    | nil => rfl
    | cons p ps ih => exact ih
  cases hw : cfg.wiring with
  | direct c =>
    cases hrw : c.rw <;>
      simp [initPinsEvents, hw, hrw, blockingTime, blockingTime_append, hmodes, -List.map_take]
  | shiftReg c =>
    cases hp : c.enPin <;>
      simp [initPinsEvents_shiftReg hw, hp, blockingTime, blockingTime_append, hmodes]
  | callback c => rw [initPinsEvents_callback hw]; rfl

/-- `begin`: the delays of its steps, and twelve transmissions in 4-bit mode or seven in 8-bit mode. -/
theorem blockingTime_beginEvents {cfg : Config} (hbw : cfg.bw = 4 ∨ cfg.bw = 8) (b : Byte) :
    blockingTime (beginEvents cfg b) =
      if cfg.bw = 4 then
        cfg.timing.tPowerOn + 2 * cfg.timing.tInitLong + cfg.timing.tInitShort + cfg.timing.tClear +
          12 * transmissionTime cfg
      else
        cfg.timing.tPowerOn + cfg.timing.tInitLong + cfg.timing.tInitShort + cfg.timing.tClear +
          7 * transmissionTime cfg := by
  rw [beginEvents_eq]
  rcases hbw with h | h <;>
    simp [blockingTime_append, blockingTime_initPinsEvents, forceStages, h, rawNibble, rawByte, blockingTime_txEvents,
      blockingTime_sendEvents, blockingTime] <;> omega

/-! ## Events the block may emit -/

theorem allowed_delay {cfg : Config} {n : Nat} (h : n ∈ timingFields cfg.timing) : (Event.delay n).allowed cfg := by
  simpa [Event.allowed] using h

theorem allowed_pinMode {cfg : Config} {p : Pin} (h : p ∈ cfg.wiring.pins) : (Event.pinMode p).allowed cfg := by
  simpa [Event.allowed] using h

theorem allowed_write_direct {cfg : Config} {c : DirectWiring} (hw : cfg.wiring = .direct c) {p : Pin} {l : Level} :
    (Event.write p l).allowed cfg ↔ p ∈ (Wiring.direct c).pins := by
  simp only [Event.allowed, hw]

theorem allowed_write_shiftReg {cfg : Config} {c : ShiftRegWiring} (hw : cfg.wiring = .shiftReg c) {p : Pin}
    {l : Level} : (Event.write p l).allowed cfg ↔ c.latch = some p ∨ c.enPin = some p := by
  simp only [Event.allowed, hw]

theorem allowed_word {cfg : Config} {c : ShiftRegWiring} (hw : cfg.wiring = .shiftReg c) (v : Byte) (m : Mode)
    (w : Nat) (e : Bool) : (Event.shift c.sdata c.sclk (srWord c cfg.srWordBits v m w e)).allowed cfg := by
  simpa only [Event.allowed, hw, true_and] using srWord_lt ..

theorem allowed_call {cfg : Config} {c : CallbackWiring} (hw : cfg.wiring = .callback c) {v : Byte} (m : Mode) {w : Nat}
    (hwidth : w = c.bw) (hv : v.toNat < 2 ^ c.bw) : (Event.call v m w).allowed cfg := by
  simpa only [Event.allowed, hw] using ⟨hwidth, hv⟩

/-- Every event of a transmission at the block's width is one the block may emit. -/
theorem allowed_of_mem_txEvents {cfg : Config} (hwf : cfg.wf) {v : Byte} {m : Mode} {e : Event}
    (hv : v.toNat < 2 ^ cfg.bw) (h : e ∈ txEvents cfg v m cfg.bw) : e.allowed cfg := by
  have hsettle : (Event.delay cfg.timing.tSettle).allowed cfg := allowed_delay (by simp [timingFields])
  have hhigh : (Event.delay cfg.timing.tEnHigh).allowed cfg := allowed_delay (by simp [timingFields])
  cases hw : cfg.wiring with
  | direct c =>
    have hpin {p : Pin} {l : Level} : p ∈ (Wiring.direct c).pins → (Event.write p l).allowed cfg :=
      (allowed_write_direct hw).2
    simp only [txEvents_direct hw, List.mem_append, List.mem_map, Option.mem_toList, pulseDirect,
      List.mem_cons, List.not_mem_nil, or_false] at h
    rcases h with ((rfl | ⟨p, hp, rfl⟩) | h) | (rfl | rfl | rfl | rfl | rfl)
    · exact hpin (by simp [Wiring.pins])
    · exact hpin (by simp [Wiring.pins, hp])
    · obtain ⟨p, hp, x, rfl⟩ := mem_dataWrites h
      exact hpin (by simp [Wiring.pins, List.mem_of_mem_take hp])
    · exact hpin (by simp [Wiring.pins])
    · exact hpin (by simp [Wiring.pins])
    · exact hhigh
    · exact hpin (by simp [Wiring.pins])
    · exact hsettle
  | shiftReg c =>
    have hword (b : Bool) := allowed_word hw v m cfg.bw b
    have hpin {p : Pin} {l : Level} : c.latch = some p ∨ c.enPin = some p → (Event.write p l).allowed cfg :=
      (allowed_write_shiftReg hw).2
    rcases shapes_of_wf (hw ▸ hwf.1) with ⟨l, p, hl, hp, -⟩ | ⟨p, hl, hp⟩ | ⟨q, hl, hp, -⟩
    · simp only [txEvents_latched hw hl hp, pulseSrPin, List.cons_append, List.nil_append, List.mem_cons,
        List.not_mem_nil, or_false] at h
      rcases h with rfl | rfl | rfl | rfl | rfl | rfl | rfl
      · exact hword true
      iterate 2 · exact hpin (.inl hl)
      · exact hpin (.inr hp)
      · exact hhigh
      · exact hpin (.inr hp)
      · exact hsettle
    · simp only [txEvents_unlatched hw hl hp, pulseSrPin, List.cons_append, List.nil_append, List.mem_cons,
        List.not_mem_nil, or_false] at h
      rcases h with rfl | rfl | rfl | rfl | rfl
      · exact hword true
      · exact hpin (.inr hp)
      · exact hhigh
      · exact hpin (.inr hp)
      · exact hsettle
    · simp only [txEvents_routed hw hl hp, List.mem_cons, List.not_mem_nil, or_false] at h
      rcases h with rfl | rfl | rfl
      · exact hword true
      · exact hword false
      · exact hsettle
  | callback c =>
    have hbw : cfg.bw = c.bw := by rw [Config.bw, hw]; rfl
    simp only [txEvents_callback hw, List.mem_cons, List.not_mem_nil, or_false] at h
    rcases h with rfl | rfl
    · exact allowed_call hw m hbw (hbw ▸ hv)
    · exact hsettle

theorem allowed_of_ofTransmission {cfg : Config} (hwf : cfg.wf) {m : Mode} {e : Event} (h : e.ofTransmission cfg m) :
    e.allowed cfg := by
  obtain ⟨v, hv, hmem⟩ := h
  rcases bw_of_wf hwf with hbw | hbw
  · exact allowed_of_mem_txEvents hwf (by simpa [hbw] using hv) (by simpa [hbw] using hmem)
  · exact allowed_of_mem_txEvents hwf (by rw [hbw]; exact v.isLt) (by simpa [hbw] using hmem)

theorem allowed_of_mem_initPinsEvents {cfg : Config} (hwf : cfg.wf) {e : Event} (h : e ∈ initPinsEvents cfg) :
    e.allowed cfg := by
  cases hw : cfg.wiring with
  | direct c =>
    have hlen : c.data.length = c.bw := ((Wiring.wf_direct c cfg.srWordBits).1 (hw ▸ hwf.1)).2.1
    simp only [initPinsEvents_direct hw hlen, List.mem_append, List.mem_map, List.mem_singleton] at h
    rcases h with ⟨p, hp, rfl⟩ | rfl
    · exact allowed_pinMode (hw ▸ hp)
    · exact (allowed_write_direct hw).2 (by simp [Wiring.pins])
  | shiftReg c =>
    simp only [initPinsEvents_shiftReg hw, List.mem_append, List.mem_map, Option.mem_toList] at h
    rcases h with ⟨p, hp, rfl⟩ | ⟨p, hp, rfl⟩
    · exact allowed_pinMode (hw ▸ hp)
    · exact (allowed_write_shiftReg hw).2 (.inr hp)
  | callback c => simp [initPinsEvents_callback hw] at h

theorem allowed_of_mem_beginEvents {cfg : Config} (hwf : cfg.wf) {b : Byte} {e : Event} (h : e ∈ beginEvents cfg b) :
    e.allowed cfg := by
  rcases mem_beginEvents h with h | h | ⟨n, hn, rfl⟩
  · exact allowed_of_mem_initPinsEvents hwf h
  · exact allowed_of_ofTransmission hwf h
  · exact allowed_delay hn

/-- Every event of an operation is one the block may emit. -/
theorem allowed_of_mem_opEvents {s : State} (hwf : s.cfg.wf) {i : Instr} {e : Event} (h : e ∈ opEvents i s) :
    e.allowed s.cfg := by
  by_cases hi : i.op = .begin
  · obtain ⟨cols, rows, font, rfl⟩ := exists_eq_begin hi
    exact allowed_of_mem_beginEvents hwf h
  · rw [opEvents_of_ne_begin hi, List.mem_append] at h
    rcases h with h | h
    · obtain ⟨w, -, hw⟩ := List.mem_flatMap.1 h
      exact allowed_of_ofTransmission hwf (ofTransmission_of_mem_sendEvents hw)
    · obtain rfl : e = .delay s.cfg.timing.tClear := by
        revert h
        cases i <;> simp [opTail, Instr.op]
      exact allowed_delay (by simp [timingFields])

theorem exec_keeps_traceOk {i : Instr} {s t : State} (h : s.cfg.wf ∧ s.traceOk) (hexec : exec i s = .next t) :
    t.cfg.wf ∧ t.traceOk := by
  obtain ⟨-, ⟨code, -, rfl⟩ | ⟨-, rfl⟩⟩ := exec_next hexec
  · exact h
  · refine ⟨by rw [opResult_cfg]; exact h.1, fun e he => ?_⟩
    rw [opResult_trace, List.mem_append] at he
    rw [opResult_cfg]
    exact he.elim (h.2 e) (allowed_of_mem_opEvents h.1)

/-! ## The obligations -/

/-- Settles O46: raising a fault emits nothing, and a result emits `opEvents`. -/
theorem traceInvariantIsKept : Obligations.TraceInvariantIsKept := by
  intro _ _ hwf h hstep
  exact (step_keeps (P := fun s => s.cfg.wf ∧ s.traceOk) (fun _ _ h => h) (fun _ _ _ => exec_keeps_traceOk)
    ⟨hwf, h⟩ hstep).2

/-- Settles O26: the events in one row. -/
theorem directTransmission : Obligations.DirectTransmission := by
  intro c v m w s hw h48 _
  rw [transmit_eq v m h48, txEvents_direct hw, rsLevel_eq, dataWrites_eq]
  simp [State.emit, bitLevel, pulseDirect]

/-- Settles O27: the three shapes. -/
theorem shiftRegisterTransmission : Obligations.ShiftRegisterTransmission := by
  intro c v m w s hw h48 word after
  rw [transmit_eq v m h48]
  refine ⟨fun p l hp hl => ?_, fun p hp hl => ?_, fun hp hl => ?_⟩
  · rw [txEvents_latched hw hl hp]
    rfl
  · rw [txEvents_unlatched hw hl hp]
    rfl
  · rw [txEvents_routed hw hl hp]
    rfl

/-- Settles O29: the data writes and the shift word read the low bits alone. -/
theorem upperBitsAreIgnored : Obligations.UpperBitsAreIgnored := by
  intro cfg v v' m w hd h
  cases hw : cfg.wiring with
  | direct c =>
    have hdata : dataWrites v 0 (c.data.take w) = dataWrites v' 0 (c.data.take w) := dataWrites_congr fun k hk => by
      simpa using h k (hk.trans_le (List.length_take_le _ _))
    rw [txEvents_direct hw, txEvents_direct hw, hdata]
  | shiftReg c => simp only [txEvents, hw, txShiftReg, srWord_congr c cfg.srWordBits m _ h]
  | callback c => simp [drivesPins, hw] at hd

/-- Settles O30: the events of each shape, counted. -/
theorem transmissionCountsAndEnd : Obligations.TransmissionCountsAndEnd := by
  intro cfg v m hwf
  cases hw : cfg.wiring with
  | direct c =>
    have hlen : c.data.length = cfg.bw := by
      rw [Config.bw, hw]
      exact ((Wiring.wf_direct c cfg.srWordBits).1 (hw ▸ hwf.1)).2.1
    rw [txEvents_direct hw]
    refine ⟨?_, by rw [List.getLast?_append]; rfl⟩
    cases hrw : c.rw <;> simp [dataWrites_length, pulseDirect, hlen, hrw] <;> omega
  | shiftReg c =>
    rcases shapes_of_wf (hw ▸ hwf.1) with ⟨l, p, hl, hp, -⟩ | ⟨p, hl, hp⟩ | ⟨q, hl, hp, -⟩
    · simp [txEvents_latched hw hl hp, pulseSrPin, hl]
    · simp [txEvents_unlatched hw hl hp, pulseSrPin, hl, hp]
    · simp [txEvents_routed hw hl hp, hl, hp]
  | callback c => simp [txEvents_callback hw]

/-- Settles O32: the events of `init_pins` in one row. -/
theorem initPinsCoverTheWiring : Obligations.InitPinsCoverTheWiring := by
  intro cfg hwf
  cases hw : cfg.wiring with
  | direct c =>
    have hlen : c.data.length = c.bw := ((Wiring.wf_direct c cfg.srWordBits).1 (hw ▸ hwf.1)).2.1
    rw [initPinsEvents_direct hw hlen]
    simp [List.filterMap_map]
  | shiftReg c =>
    rw [initPinsEvents_shiftReg hw]
    cases hp : c.enPin <;> simp [List.filterMap_map, hp]
  | callback c =>
    rw [initPinsEvents_callback hw]
    exact ⟨rfl, rfl⟩

/-- Settles O35: the time of the words and of the added delay; for `begin`, of its steps. -/
theorem blockingTimes : Obligations.BlockingTimes := by
  refine ⟨fun i s t hi h hwf hexec => ?_, fun cols rows font s t h hwf h1 h4 hexec => ?_⟩
  · obtain rfl := eq_opResult_of_ready hi h hexec
    rw [opResult_trace, opEvents_of_ne_begin hi, blockingTime_append, blockingTime_append,
      blockingTime_wordEvents (bw_of_wf hwf), length_opWords hi, blockingTime_opTail, Nat.add_assoc]
  · obtain rfl : opResult (.begin cols rows font) s = t := by simpa [exec_begin_of_fresh h h1 h4] using hexec
    rw [opResult_trace, blockingTime_append]
    exact congrArg _ (blockingTime_beginEvents (bw_of_wf hwf) _)

/-- Settles O43: the registers do not depend on HD_ENC, and the events keep their shape. -/
theorem hdEncGivesByteValuesOnly : Obligations.HdEncGivesByteValuesOnly := by
  intro i s e
  refine ⟨fun t h => ?_, fun hi => ?_, fun f h => ?_⟩
  · obtain ⟨hf, ⟨code, hb, rfl⟩ | ⟨hb, rfl⟩⟩ := exec_next h
    · refine ⟨[], ?_, by rw [List.append_nil]; rfl⟩
      rw [exec_of_breach (s := s.withHdEnc e) hf hb, List.append_nil]
      rfl
    · refine ⟨opEvents i (s.withHdEnc e), ?_, ?_⟩
      · rw [exec_completes (s := s.withHdEnc e) hf hb, opResult_withHdEnc]
      · rw [opResult_trace]
        exact (SameShape.refl _ _).append (shape_opEvents i s e)
  · refine exec_comm (fun t => t.withHdEnc e) rfl rfl (fun _ => rfl) ?_
    rw [opResult_withHdEnc, opEvents_withHdEnc hi, ← opResult_trace]
    rfl
  · obtain ⟨code, hf, rfl⟩ := exec_fault h
    exact exec_of_fault i hf

end Sys2Proof.Machine

/-! # The line family: what the controller finds at the enable pulses

Each piece of the trace is described by what the controller hears of it: the line values at its enable rises, from any
earlier trace that leaves enable not high, and enable not high again at its end. The descriptions compose, from the
pulse through the transmission and the byte to whole operations. -/

namespace Sys2Proof.Machine

/-! ## Hearing -/

/-- From any trace with enable not high, these events give these line values at their enable rises, and leave enable not
high (40_transmission.md R111). -/
def Hears (w : Wiring) (evs : List Event) (xs : List (Option Bool × List (Option Bool))) : Prop :=
  ∀ earlier, enableLevel w earlier ≠ some true →
    riseSamples w earlier evs = xs ∧ enableLevel w (earlier ++ evs) ≠ some true

theorem Hears.nil (w : Wiring) : Hears w [] [] := fun _ h => ⟨rfl, by rwa [List.append_nil]⟩

theorem Hears.append {w : Wiring} {a b : List Event} {xs ys : List (Option Bool × List (Option Bool))}
    (ha : Hears w a xs) (hb : Hears w b ys) : Hears w (a ++ b) (xs ++ ys) := by
  intro earlier h
  obtain ⟨hxs, hmid⟩ := ha earlier h
  obtain ⟨hys, hend⟩ := hb _ hmid
  exact ⟨by rw [riseSamples_append, hxs, hys], by rwa [← List.append_assoc]⟩

/-- Events that leave the enable line alone are not heard. -/
theorem Hears.of_quiet {w : Wiring} {evs : List Event}
    (h : ∀ e ∈ evs, ∀ before, enableLevel w (before ++ [e]) = enableLevel w before) : Hears w evs [] := by
  intro earlier hidle
  obtain ⟨hrise, hlevel⟩ := riseSamples_quiet w earlier evs h
  exact ⟨hrise, hlevel ▸ hidle⟩

/-! ## What moves the enable line -/

theorem enableLevel_nil (w : Wiring) : enableLevel w [] = none := by
  cases w with
  | direct c => rfl
  | shiftReg c =>
    simp only [enableLevel, outputWord]
    cases c.enPin <;> cases c.enPos <;> cases c.latch <;> rfl
  | callback c => rfl

/-- Pin setup and delays move no line. -/
theorem enableLevel_append_still (w : Wiring) (before : List Event) {e : Event}
    (h : (∃ p, e = .pinMode p) ∨ ∃ n, e = .delay n) : enableLevel w (before ++ [e]) = enableLevel w before := by
  have hout (c : ShiftRegWiring) : outputWord c (before ++ [e]) = outputWord c before := by
    unfold outputWord
    split <;> rcases h with ⟨p, rfl⟩ | ⟨n, rfl⟩ <;>
      simp [latchContents_append, latchContentsFrom, shiftContents_append, shiftContentsFrom]
  have hlevel (p : Pin) : level (before ++ [e]) p = level before p := by
    rcases h with ⟨q, rfl⟩ | ⟨n, rfl⟩ <;> simp [level_append, levelFrom]
  cases w <;> simp only [enableLevel, hout, hlevel]

theorem hears_delays (w : Wiring) (ns : List Nat) : Hears w (ns.map .delay) [] :=
  .of_quiet fun e he before => enableLevel_append_still w before (.inr (by
    obtain ⟨n, -, rfl⟩ := List.mem_map.1 he
    exact ⟨n, rfl⟩))

theorem hears_delay (w : Wiring) (n : Nat) : Hears w [.delay n] [] := hears_delays w [n]

theorem hears_pinModes (w : Wiring) (ps : List Pin) : Hears w (ps.map .pinMode) [] :=
  .of_quiet fun e he before => enableLevel_append_still w before (.inl (by
    obtain ⟨p, -, rfl⟩ := List.mem_map.1 he
    exact ⟨p, rfl⟩))

/-- The enable line is a pin of its own. -/
def EnableOnPin (w : Wiring) (p : Pin) : Prop := ∀ t, enableLevel w t = (level t p).map fun l => l == .high

theorem enableOnPin_direct (c : DirectWiring) : EnableOnPin (.direct c) c.en := fun _ => rfl

theorem enableOnPin_shiftReg {c : ShiftRegWiring} {p : Pin} (hp : c.enPin = some p) :
    EnableOnPin (.shiftReg c) p := fun _ => by simp only [enableLevel, hp]

/-- A pin keeps its level through events that do not write it. -/
theorem levelFrom_of_not_written {p : Pin} {evs : List Event} (h : ∀ l, Event.write p l ∉ evs) (cur : Option Level) :
    levelFrom p cur evs = cur := by
  induction evs generalizing cur with
  | nil => rfl
  | cons e evs ih =>
    have htail (cur : Option Level) : levelFrom p cur evs = cur := ih (fun l hl => h l (List.mem_cons_of_mem _ hl)) cur
    cases e with
    | write q l =>
      have hq : q ≠ p := by rintro rfl; exact h l (by simp)
      simp only [levelFrom, hq, if_false, htail]
    | _ => exact htail cur

/-- Events that do not write the enable pin are not heard. -/
theorem EnableOnPin.hears_others {w : Wiring} {p : Pin} (hw : EnableOnPin w p) {evs : List Event}
    (h : ∀ l, Event.write p l ∉ evs) : Hears w evs [] :=
  .of_quiet fun e he before => by
    rw [hw, hw, level_append, levelFrom_of_not_written]
    intro l hl
    exact h l (List.mem_singleton.1 hl ▸ he)

theorem EnableOnPin.hears_low {w : Wiring} {p : Pin} (hw : EnableOnPin w p) : Hears w [.write p .low] [] := by
  intro earlier _
  simp [riseSamples, hw _, level_append, levelFrom]

/-- An enable pulse on a pin: the lines are heard once, at its rise (40_transmission.md R103, R107). -/
theorem EnableOnPin.hears_pulse {w : Wiring} {p : Pin} (hw : EnableOnPin w p) {pre : List Event}
    {x : Option Bool × List (Option Bool)} (hpre : Hears w pre [])
    (hx : ∀ earlier, lineValues w (earlier ++ pre ++ [.write p .high]) = x) (a b : Nat) :
    Hears w (pre ++ [.write p .high, .delay a, .write p .low, .delay b]) [x] := by
  intro earlier h
  obtain ⟨hrise, hidle⟩ := hpre earlier h
  have hx := hx earlier
  rw [riseSamples_append, hrise, List.nil_append, ← List.append_assoc]
  generalize earlier ++ pre = presented at hidle hx ⊢
  have hhigh : enableLevel w (presented ++ [.write p .high]) = some true := by simp [hw _, level_append, levelFrom]
  constructor
  · rw [riseSamples, if_pos ⟨hidle, hhigh⟩, hx]
    simp [riseSamples, hw _, level_append, levelFrom]
  · simp [hw _, level_append, levelFrom]

/-! ## The lines at the rise -/

/-- A list of lines read off one by one. -/
theorem map_eq_map_range {α β : Type} {l : List α} {f : α → β} {g : Nat → β}
    (h : ∀ k a, l[k]? = some a → f a = g k) : l.map f = (List.range l.length).map g := by
  refine List.ext_getElem (by simp) fun k h1 h2 => ?_
  have hk : k < l.length := by simpa using h1
  simpa using h k l[k] (List.getElem?_eq_getElem hk)

theorem not_mem_dataWrites {p : Pin} {l : List Pin} (h : p ∉ l) (v : Byte) (i : Nat) (x : Level) :
    Event.write p x ∉ dataWrites v i l := by
  intro hmem
  obtain ⟨q, hq, y, heq⟩ := mem_dataWrites hmem
  cases heq
  exact h hq

/-- Each data pin ends with the level of its bit (40_transmission.md R102). -/
theorem levelFrom_dataWrites {v : Byte} {i : Nat} {l : List Pin} (hnd : l.Nodup) {k : Nat} {p : Pin}
    (hk : l[k]? = some p) (cur : Option Level) :
    levelFrom p cur (dataWrites v i l) = some (bitLevel v (i + k)) := by
  induction l generalizing i k cur with
  | nil => simp at hk
  | cons q l ih =>
    obtain ⟨hq, hl⟩ := List.nodup_cons.1 hnd
    cases k with
    | zero =>
      obtain rfl : q = p := by simpa using hk
      simp [dataWrites, levelFrom, levelFrom_of_not_written (not_mem_dataWrites hq v (i + 1))]
    | succ k =>
      rw [dataWrites, levelFrom, ih hl (by simpa using hk)]
      congr 2
      omega

theorem bitLevel_high (v : Byte) (i : Nat) : (bitLevel v i == .high) = v.getLsbD i := by
  unfold bitLevel
  cases v.getLsbD i <;> rfl

theorem rsLevel_high (m : Mode) : (rsLevel m == .high) = decide (m = .data) := by cases m <;> rfl

/-- The presentation of a Direct transmission before its enable pulse (40_transmission.md R102). -/
def presentation (c : DirectWiring) (v : Byte) (m : Mode) : List Event :=
  [.write c.rs (rsLevel m)] ++ c.rw.toList.map (fun p => Event.write p .low) ++ dataWrites v 0 c.data

theorem txEvents_eq_presentation {cfg : Config} {c : DirectWiring} (hw : cfg.wiring = .direct c)
    (hlen : c.data.length = c.bw) (v : Byte) (m : Mode) :
    txEvents cfg v m c.bw = (presentation c v m ++ [.write c.en .low]) ++
      [.write c.en .high, .delay cfg.timing.tEnHigh, .write c.en .low, .delay cfg.timing.tSettle] := by
  rw [txEvents_direct hw, List.take_of_length_le hlen.le, presentation, pulseDirect]
  simp

/-- The presentation does not touch the enable pin. -/
theorem en_not_mem_presentation {c : DirectWiring} (h : (Wiring.direct c).pins.Nodup) (v : Byte) (m : Mode)
    (l : Level) : Event.write c.en l ∉ presentation c v m := by
  obtain ⟨-, hrs, -, hen, hrw⟩ := (nodup_pins_direct c).1 h
  have hrw' : c.rw ≠ some c.en := fun hp => (hrw _ hp).2.1 rfl
  simp [presentation, hrs.symm, hrw', not_mem_dataWrites hen]

/-- After the presentation and two writes of enable the lines carry mode and bits. -/
theorem lineValues_direct {c : DirectWiring} {n : Nat} (h : (Wiring.direct c).wf n) (v : Byte) (m : Mode)
    (earlier : List Event) :
    lineValues (.direct c) (earlier ++ (presentation c v m ++ [.write c.en .low]) ++ [.write c.en .high]) =
      heardAs m v c.bw := by
  obtain ⟨-, hlen, hpins⟩ := (Wiring.wf_direct c n).1 h
  obtain ⟨hnd, hrs, hrsd, hend, hrw⟩ := (nodup_pins_direct c).1 hpins
  have hrest : ∀ l, Event.write c.rs l ∉ c.rw.toList.map (fun p => Event.write p .low) ++ dataWrites v 0 c.data := by
    have hrw' : c.rw ≠ some c.rs := fun hp => (hrw _ hp).1 rfl
    simp [hrw', not_mem_dataWrites hrsd]
  have hother {p : Pin} (hp : c.en ≠ p) (t : List Event) :
      level (t ++ [.write c.en .low] ++ [.write c.en .high]) p = level t p := by
    simp [level_append, levelFrom, hp]
  rw [← List.append_assoc, lineValues, heardAs, ← hlen]
  refine Prod.ext ?_ (map_eq_map_range fun k p hk => ?_)
  · rw [hother hrs.symm, level_append, presentation, List.append_assoc, List.singleton_append, levelFrom,
      levelFrom_of_not_written hrest]
    simp [rsLevel_high]
  · have hp : c.en ≠ p := by rintro rfl; exact hend (List.mem_of_getElem? hk)
    rw [hother hp, level_append, presentation, levelFrom_append, levelFrom_dataWrites hnd hk]
    simp [bitLevel_high]

/-- A word with enable asked for or not carries mode and bits on its output lines. -/
theorem lineValues_shiftReg {c : ShiftRegWiring} {n : Nat} (h : (Wiring.shiftReg c).wf n) {v : Byte} {m : Mode}
    {e : Bool} {t : List Event} (hout : outputWord c t = some (srWord c n v m c.bw e)) :
    lineValues (.shiftReg c) t = heardAs m v c.bw := by
  obtain ⟨-, hlen, -⟩ := (Wiring.wf_shiftReg c n).1 h
  obtain ⟨hrs, -, -, hdata, -, -⟩ := shiftWordBits c n v m c.bw e h le_rfl
  rw [lineValues, heardAs, hout, ← hlen]
  refine Prod.ext (by simp [hlen, hrs]) (map_eq_map_range fun k q hk => ?_)
  have hlt : k < c.bw := hlen ▸ (List.getElem?_eq_some_iff.1 hk).1
  simp [hlen, hdata k q hlt hk]

theorem outputWord_unlatched {c : ShiftRegWiring} (hl : c.latch = none) (t : List Event) :
    outputWord c t = shiftContents t := by
  simp only [outputWord, hl]

theorem outputWord_latched {c : ShiftRegWiring} {l : Pin} (hl : c.latch = some l) (t : List Event) :
    outputWord c t = latchContents t l := by
  simp only [outputWord, hl]

/-! ## One transmission -/

/-- With enable in the word: high in the first word, low in the second (40_transmission.md R108). -/
theorem hears_routed {cfg : Config} {c : ShiftRegWiring} {q : Pos} (hw : cfg.wiring = .shiftReg c)
    (hwf : (Wiring.shiftReg c).wf cfg.srWordBits) (hl : c.latch = none) (hp : c.enPin = none) (hq : c.enPos = some q)
    (v : Byte) (m : Mode) : Hears (.shiftReg c) (txEvents cfg v m c.bw) [heardAs m v c.bw] := by
  have hen (t : List Event) : enableLevel (.shiftReg c) t = (shiftContents t).map fun word => word.testBit q := by
    simp only [enableLevel, hp, hq, outputWord_unlatched hl]
  have hbit (e : Bool) : (srWord c cfg.srWordBits v m c.bw e).testBit q = e := by
    obtain ⟨-, hbit, -⟩ := shiftWordBits c cfg.srWordBits v m c.bw e hwf le_rfl
    exact hbit q hq
  intro earlier h
  have hx : lineValues (.shiftReg c)
      (earlier ++ [.shift c.sdata c.sclk (srWord c cfg.srWordBits v m c.bw true)]) = heardAs m v c.bw :=
    lineValues_shiftReg hwf (by rw [outputWord_unlatched hl, shiftContents_append]; rfl)
  rw [hen] at h
  rw [txEvents_routed hw hl hp, riseSamples, hx]
  constructor
  · simp [riseSamples, hen, h, shiftContents_append, shiftContentsFrom, hbit]
  · simp [hen, shiftContents_append, shiftContentsFrom, hbit]

/-- One transmission at the block's width is heard once, as its mode and its bits (20_memory.md R65). -/
theorem hears_txEvents {cfg : Config} (hwf : cfg.wf) (hd : drivesPins cfg = true) (v : Byte) (m : Mode) :
    Hears cfg.wiring (txEvents cfg v m cfg.bw) [heardAs m v cfg.bw] := by
  have hwf' := hwf.1
  rw [Config.bw]
  cases hw : cfg.wiring with
  | direct c =>
    rw [hw] at hwf'
    obtain ⟨-, hlen, hpins⟩ := (Wiring.wf_direct c cfg.srWordBits).1 hwf'
    have hen := enableOnPin_direct c
    rw [Wiring.bw, txEvents_eq_presentation hw hlen]
    exact hen.hears_pulse ((hen.hears_others (en_not_mem_presentation hpins v m)).append hen.hears_low)
      (lineValues_direct hwf' v m) _ _
  | shiftReg c =>
    rw [hw] at hwf'
    rcases shapes_of_wf hwf' with ⟨l, p, hl, hp, hpl⟩ | ⟨p, hl, hp⟩ | ⟨q, hl, hp, hq⟩
    · have hen := enableOnPin_shiftReg hp
      rw [Wiring.bw, txEvents_latched hw hl hp]
      refine hen.hears_pulse (hen.hears_others (by simp [hpl])) (fun earlier => ?_) _ _
      refine lineValues_shiftReg hwf' (e := true) ?_
      simp [outputWord_latched hl, latchContents_append, latchContentsFrom, hpl]
    · have hen := enableOnPin_shiftReg hp
      rw [Wiring.bw, txEvents_unlatched hw hl hp]
      refine hen.hears_pulse (pre := [_]) (hen.hears_others (by simp)) (fun earlier => ?_) _ _
      refine lineValues_shiftReg hwf' (e := true) ?_
      simp [outputWord_unlatched hl, shiftContents_append, shiftContentsFrom]
    · exact hears_routed hw hwf' hl hp hq v m
  | callback c => simp [drivesPins, hw] at hd

/-! ## Bytes, words, operations -/

theorem wordsHeard_cons (bw : Nat) (w : BusWord) (ws : List BusWord) :
    wordsHeard bw (w :: ws) = wordsHeard bw [w] ++ wordsHeard bw ws := by
  simp [wordsHeard]

section
variable {cfg : Config} (hwf : cfg.wf) (hd : drivesPins cfg = true)
include hwf hd

/-- A byte is heard as its nibbles, high first, or whole (20_memory.md R66). -/
theorem hears_sendEvents (v : Byte) (m : Mode) :
    Hears cfg.wiring (sendEvents cfg v m) ((sendValues cfg.bw v).map fun x => heardAs m x cfg.bw) := by
  have htx (x : Byte) := hears_txEvents hwf hd x m
  rw [sendEvents_eq]
  rcases bw_of_wf hwf with hbw | hbw
  · simpa [hbw, sendValues] using (hbw ▸ htx (highNibble v)).append (hbw ▸ htx (lowNibble v))
  · simpa [hbw, sendValues] using hbw ▸ htx v

theorem hears_wordEvents (ws : List BusWord) : Hears cfg.wiring (wordEvents cfg ws) (wordsHeard cfg.bw ws) := by
  induction ws with
  | nil => exact .nil _
  | cons w ws ih => exact (hears_sendEvents hwf hd w.byte w.mode).append ih

theorem hears_rawByte (v : Byte) (after : List Nat) :
    Hears cfg.wiring (rawByte cfg v after) (wordsHeard cfg.bw [⟨.command, v⟩]) := by
  simpa [rawByte, wordsHeard] using (hears_sendEvents hwf hd v .command).append (hears_delays cfg.wiring after)

/-- A byte of the sequence and what is sent after it. -/
theorem hears_rawByte_append (v : Byte) (after : List Nat) {evs : List Event} {ws : List BusWord}
    (h : Hears cfg.wiring evs (wordsHeard cfg.bw ws)) :
    Hears cfg.wiring (rawByte cfg v after ++ evs) (wordsHeard cfg.bw (⟨.command, v⟩ :: ws)) := by
  rw [wordsHeard_cons]
  exact (hears_rawByte hwf hd v after).append h

theorem hears_rawNibble (hbw : cfg.bw = 4) (v : Byte) (after : List Nat) :
    Hears cfg.wiring (rawNibble cfg v after) [heardAs .command v 4] := by
  simpa [rawNibble, hbw] using (hears_txEvents hwf hd v .command).append (hears_delays cfg.wiring after)

end

/-- `init_pins` leaves enable low or as it was, and is not heard (41_initialization.md R142). -/
theorem hears_initPinsEvents {cfg : Config} (hwf : cfg.wf) : Hears cfg.wiring (initPinsEvents cfg) [] := by
  cases hw : cfg.wiring with
  | direct c =>
    have hlen : c.data.length = c.bw := ((Wiring.wf_direct c cfg.srWordBits).1 (hw ▸ hwf.1)).2.1
    rw [initPinsEvents_direct hw hlen]
    exact (hears_pinModes _ _).append (enableOnPin_direct c).hears_low
  | shiftReg c =>
    rw [initPinsEvents_shiftReg hw]
    refine (hears_pinModes _ _).append (ys := []) ?_
    cases hp : c.enPin with
    | none => exact .nil _
    | some p => exact (enableOnPin_shiftReg hp).hears_low
  | callback c => rw [initPinsEvents_callback hw]; exact .nil _

/-- What the controller hears of `begin` with a function-set byte: the forced width, the committed function set, and the
three bytes that follow (41_initialization.md R144 to R149). -/
def beginHeard (cfg : Config) (b : Byte) : List (Option Bool × List (Option Bool)) :=
  (if cfg.bw = 4 then
    [heardAs .command 0x3 4, heardAs .command 0x3 4, heardAs .command 0x3 4, heardAs .command 0x2 4] ++
      wordsHeard 4 [⟨.command, b⟩]
  else wordsHeard 8 [⟨.command, b⟩, ⟨.command, b⟩, ⟨.command, b⟩, ⟨.command, b⟩]) ++
    wordsHeard cfg.bw [⟨.command, encCtl cfg.hdEnc ctlAfterBegin⟩, ⟨.command, cfg.hdEnc.clear⟩,
      ⟨.command, encEnt cfg.hdEnc entAfterBegin⟩]

theorem hears_forceStages {cfg : Config} (hwf : cfg.wf) (hd : drivesPins cfg = true) (b : Byte) :
    Hears cfg.wiring ((forceStages cfg b).flatMap Prod.snd)
      (if cfg.bw = 4 then
        [heardAs .command 0x3 4, heardAs .command 0x3 4, heardAs .command 0x3 4, heardAs .command 0x2 4] ++
          wordsHeard 4 [⟨.command, b⟩]
      else wordsHeard 8 [⟨.command, b⟩, ⟨.command, b⟩, ⟨.command, b⟩, ⟨.command, b⟩]) := by
  have hlast := hears_rawByte hwf hd b []
  rcases bw_of_wf hwf with hbw | hbw
  · have hnib := hears_rawNibble hwf hd hbw
    simpa [forceStages, hbw] using (hnib 0x03 [cfg.timing.tInitLong]).append ((hnib 0x03 [cfg.timing.tInitLong]).append
      ((hnib 0x03 [cfg.timing.tInitShort]).append ((hnib 0x02 []).append hlast)))
  · simpa [forceStages, hbw] using hears_rawByte_append hwf hd b [cfg.timing.tInitLong]
      (hears_rawByte_append hwf hd b [cfg.timing.tInitShort] (hears_rawByte_append hwf hd b [] hlast))

theorem hears_beginEvents {cfg : Config} (hwf : cfg.wf) (hd : drivesPins cfg = true) (b : Byte) :
    Hears cfg.wiring (beginEvents cfg b) (beginHeard cfg b) := by
  have hcut : beginEvents cfg b = (initPinsEvents cfg ++ [.delay cfg.timing.tPowerOn]) ++
      (forceStages cfg b).flatMap Prod.snd ++ (rawByte cfg (encCtl cfg.hdEnc ctlAfterBegin) [] ++
        (rawByte cfg cfg.hdEnc.clear [cfg.timing.tClear] ++ rawByte cfg (encEnt cfg.hdEnc entAfterBegin) [])) := by
    simp [beginEvents_eq, rawByte]
  rw [hcut]
  exact (((hears_initPinsEvents hwf).append (hears_delay _ _)).append (hears_forceStages hwf hd b)).append
    (hears_rawByte_append hwf hd _ _ (hears_rawByte_append hwf hd _ _ (hears_rawByte hwf hd _ _)))

theorem hears_opEvents_begin {s : State} (hwf : s.cfg.wf) (hd : drivesPins s.cfg = true) (cols rows : Byte)
    (font : Font) :
    Hears s.cfg.wiring (opEvents (.begin cols rows font) s)
      (beginHeard s.cfg (encFn s.cfg.hdEnc (opResult (.begin cols rows font) s).fn)) :=
  hears_beginEvents hwf hd _

theorem hears_opEvents {s : State} (hwf : s.cfg.wf) (hd : drivesPins s.cfg = true) {i : Instr} (hi : i.op ≠ .begin) :
    Hears s.cfg.wiring (opEvents i s) (wordsHeard s.cfg.bw (opWords i s)) := by
  have htail : Hears s.cfg.wiring (opTail i s.cfg.timing) [] := by
    cases i with
    | clear | home => exact hears_delay _ _
    | _ => exact .nil _
  rw [opEvents_of_ne_begin hi, ← List.append_nil (wordsHeard ..)]
  exact (hears_wordEvents hwf hd _).append htail

/-- What an operation's events say is heard behind what the trace before it said. -/
theorem heard_opResult {i : Instr} {s : State} {xs : List (Option Bool × List (Option Bool))}
    (h : Hears s.cfg.wiring (opEvents i s) xs) (hidle : s.enableIdle) :
    (opResult i s).heard = s.heard ++ xs ∧ (opResult i s).enableIdle := by
  obtain ⟨hxs, hend⟩ := h s.trace hidle
  simp only [State.heard, State.enableIdle, opResult_cfg, opResult_trace, riseSamples_append, List.nil_append]
  exact ⟨by rw [hxs], hend⟩

/-- Under a callback there is no enable line to be high (40_transmission.md R110). -/
theorem enableIdle_of_not_drivesPins {s : State} (hd : drivesPins s.cfg ≠ true) : s.enableIdle := by
  unfold State.enableIdle
  cases hw : s.cfg.wiring with
  | direct c | shiftReg c => simp [drivesPins, hw] at hd
  | callback c => simp [enableLevel]

theorem exec_keeps_enableIdle {i : Instr} {s t : State} (h : s.cfg.wf ∧ s.enableIdle) (hexec : exec i s = .next t) :
    t.cfg.wf ∧ t.enableIdle := by
  obtain ⟨hwf, hidle⟩ := h
  obtain ⟨-, ⟨code, -, rfl⟩ | ⟨-, rfl⟩⟩ := exec_next hexec
  · exact ⟨hwf, hidle⟩
  · refine ⟨by rwa [opResult_cfg], ?_⟩
    by_cases hd : drivesPins s.cfg = true
    · by_cases hi : i.op = .begin
      · obtain ⟨cols, rows, font, rfl⟩ := exists_eq_begin hi
        exact (heard_opResult (hears_opEvents_begin hwf hd cols rows font) hidle).2
      · exact (heard_opResult (hears_opEvents hwf hd hi) hidle).2
    · exact enableIdle_of_not_drivesPins (by rwa [opResult_cfg])

/-! ## The obligations -/

/-- Settles O33: the words of the operation, heard one after the other. -/
theorem controllerHearsTheWords : Obligations.ControllerHearsTheWords := by
  intro i s t hi h hwf hd hidle hexec
  obtain rfl := eq_opResult_of_ready hi h hexec
  exact heard_opResult (hears_opEvents hwf hd hi) hidle

/-- Settles O48: a raised fault emits nothing, and what an operation emits ends with enable not high. -/
theorem enableInvariantIsKept : Obligations.EnableInvariantIsKept := by
  intro _ _ hwf h hstep
  exact (step_keeps (P := fun s => s.cfg.wf ∧ s.enableIdle) (fun _ _ h => h) (fun _ _ _ => exec_keeps_enableIdle)
    ⟨hwf, h⟩ hstep).2

/-- Settles O34: the stages of `begin`, heard one after the other from an empty trace. -/
theorem controllerHearsBegin : Obligations.ControllerHearsBegin := by
  intro cols rows font s t h hwf hd htrace h1 h4 hexec enc setup fnWord
  have hidle : s.enableIdle := by simp [State.enableIdle, htrace, enableLevel_nil]
  obtain rfl : opResult (.begin cols rows font) s = t := by simpa [exec_begin_of_fresh h h1 h4] using hexec
  have hctl : (opResult (.begin cols rows font) s).ctl = ctlAfterBegin := rfl
  have hent : (opResult (.begin cols rows font) s).ent = entAfterBegin := rfl
  obtain ⟨hheard, hend⟩ := heard_opResult (hears_opEvents_begin hwf hd cols rows font) hidle
  have hempty : s.heard = [] := by rw [State.heard, htrace]; rfl
  rw [hempty, List.nil_append] at hheard
  refine ⟨fun henc => ?_, fun hbw => ?_, fun hbw => ?_, hend⟩
  · simp only [setup, hctl, hent, henc]
    decide
  · rw [hheard, beginHeard, if_pos hbw, hbw, List.append_assoc, ← wordsHeard_cons]
    rfl
  · rw [hheard, beginHeard, if_neg (by omega), hbw]
    simp only [wordsHeard, ← List.flatMap_append]
    rfl

/-- Settles O49: an empty trace has no event, no fault is set, and no line has been driven. -/
theorem constructedBlocksMeetTheOtherInvariants : Obligations.ConstructedBlocksMeetTheOtherInvariants := by
  have h (cfg : Config) : (State.constructed cfg).traceOk ∧ (State.constructed cfg).faultOk ∧
      (State.constructed cfg).enableIdle :=
    ⟨nofun, nofun, by simp [State.enableIdle, State.constructed, enableLevel_nil]⟩
  exact ⟨h, by decide, h _⟩

end Sys2Proof.Machine
